-- ==== Sys2Proof/Word.lean ====
section
/-! DEFINITION. The samples and tag pairs the block works on (00_scope.md R6, R7). -/

namespace Sys2Proof

/-- A RawSample: an unsigned 16-bit integer (00_scope.md R6 SAMPLE_W, R7; 10_state.md R10). -/
abbrev Sample := BitVec 16

/-- A tag pair `(t0, t1)`, the sample at offset 4 first (30_encoding.md R47). -/
abbrev Tag := Sample × Sample

end Sys2Proof
end

