-- ==== Sys2Proof/Config.lean ====
section
/-! DEFINITION. The named constants of 00_scope.md R6, and the two open parameters (92_eei_decisions.md D15, D24). -/

namespace Sys2Proof

/-- The constants of R6, each a field whose default is the value the spec shows. -/
structure Config where
  /-- SAMPLE_W: bits of a sample; the type `Sample` has this width. -/
  sampleW : Nat := 16
  /-- SUBREC_LEN: samples per sub-record. -/
  subrecLen : Nat := 8
  /-- NSUB: sub-records per RawBlock. -/
  nsub : Nat := 7
  /-- BLOCK_LEN: samples per RawBlock. -/
  blockLen : Nat := 56
  /-- TAG0_OFF: offset of the first tag sample. -/
  tag0Off : Nat := 4
  /-- TAG1_OFF: offset of the second tag sample. -/
  tag1Off : Nat := 5
  /-- VAL_OFF: offset of the value sample. -/
  valOff : Nat := 7
  /-- TAG_BND: packet boundary. -/
  tagBnd : Tag := (0x0000, 0x0000)
  /-- TAG_X: X-axis sub-record. -/
  tagX : Tag := (0x0002, 0x0000)
  /-- TAG_Y: Y-axis sub-record. -/
  tagY : Tag := (0x0002, 0x0001)
  /-- TAG_Z: Z-axis sub-record. -/
  tagZ : Tag := (0x0002, 0x0002)
  /-- K_LO: classifier constant. -/
  kLo : Sample := 0x0000
  /-- K_HI: classifier constant. -/
  kHi : Sample := 0xFFFF
deriving DecidableEq, Repr

/-- The two orders a byte-serial front end may have (20_memory.md R33). -/
inductive ByteOrder where
  | little
  | big
deriving DecidableEq, Repr, Inhabited

/-- BYTE_ORDER: OPEN (92_eei_decisions.md D15), outside the block; no rule of the block reads it. Log 12. -/
opaque Config.byteOrder : ByteOrder

/-- TIME_UNIT: OPEN (92_eei_decisions.md D24), outside the block; no rule of the block reads it. Log 12. DESIGN CHOICE: it stands as a whole
number of nanoseconds; the spec names no unit and no scale (91_not_in_source.md N6), and no definition reads it. Log 18. -/
opaque Config.timeUnit : Nat

end Sys2Proof
end

