-- ==== Sys2Proof/Syntax.lean ====
section
/-! DEFINITION. The instruction set: the five sub-record classes and the two host commands (spec/opcode_table.json). -/

namespace Sys2Proof

/-- The five classes of sub-record (30_encoding.md R50). -/
inductive SubClass where
  | bnd
  | xax
  | yax
  | zax
  | oth
deriving DecidableEq, Repr

/-- One constructor per row of spec/opcode_table.json. Operands as in the short forms of 30_encoding.md R54. -/
inductive Instr where
  /-- BND, packet boundary; its value sample is ignored (41_subrecord_ops.md R70). -/
  | bnd
  /-- XAX v (R71). -/
  | xax (v : Sample)
  /-- YAX v (R72). -/
  | yax (v : Sample)
  /-- ZAX v (R73). -/
  | zax (v : Sample)
  /-- OTH t0, t1, v: any other tag pair; its value sample is ignored (R74). -/
  | oth (t0 t1 v : Sample)
  /-- RESET, the input `rst` (40_scan_control.md R60). -/
  | reset
  /-- START, the input `start` (40_scan_control.md R61). -/
  | start
deriving DecidableEq, Repr

/-- The class of a sub-record instruction; none for a host command. -/
def Instr.subClass : Instr → Option SubClass
  | .bnd => some .bnd
  | .xax _ => some .xax
  | .yax _ => some .yax
  | .zax _ => some .zax
  | .oth _ _ _ => some .oth
  | .reset => none
  | .start => none

/-- The tag pair of a sub-record instruction (30_encoding.md R50); none for a host command. -/
def Instr.tag (c : Config) : Instr → Option Tag
  | .bnd => some c.tagBnd
  | .xax _ => some c.tagX
  | .yax _ => some c.tagY
  | .zax _ => some c.tagZ
  | .oth t0 t1 _ => some (t0, t1)
  | .reset => none
  | .start => none

end Sys2Proof
end

