-- ==== Sys2Proof/WellFormed.lean ====
section
/-! DEFINITION. Which terms of Instr are instructions: an OTH may not carry one of the four named tags (30_encoding.md R54). -/

namespace Sys2Proof

/-- `OTH t0, t1, v` has a tag that is none of the four of R50; every other term is well formed. -/
def Instr.wf (c : Config) : Instr → Bool
  | .bnd => true
  | .xax _ => true
  | .yax _ => true
  | .zax _ => true
  | .oth t0 t1 _ => !decide ((t0, t1) ∈ [c.tagBnd, c.tagX, c.tagY, c.tagZ])
  | .reset => true
  | .start => true

end Sys2Proof
end

