-- ==== Sys2Proof/Decode.lean ====
section
/-! DEFINITION. The tag matcher, the decoder of sub-record words and of the command pins, and the encoder
(30_encoding.md R45 to R54, 42_classify.md R80 to R82, spec/opcode_table.json). -/

namespace Sys2Proof

/-- The configuration this machine runs with: every constant at the value R6 shows. -/
def cfg : Config := {}

/-! ## The one sub-record format, SR -/

/-- The eight samples of a sub-record by offset (30_encoding.md R45); the form `.sr` of R54. -/
structure SubRecord where
  s0 : Sample
  s1 : Sample
  s2 : Sample
  s3 : Sample
  t0 : Sample
  t1 : Sample
  s6 : Sample
  v : Sample
deriving DecidableEq, Repr

/-- A sub-record as one 128-bit word: the sample at offset k in bits 16k+15 to 16k (R46). -/
def packWord (r : SubRecord) : BitVec 128 :=
  r.v ++ r.s6 ++ r.t1 ++ r.t0 ++ r.s3 ++ r.s2 ++ r.s1 ++ r.s0

/-- The sample at offset `k` of a sub-record word (R46). -/
def wordSample (w : BitVec 128) (k : Nat) : Sample := w.extractLsb' (16 * k) 16

/-- The sub-record a 128-bit word holds (R46). -/
def unpackWord (w : BitVec 128) : SubRecord where
  s0 := wordSample w 0
  s1 := wordSample w 1
  s2 := wordSample w 2
  s3 := wordSample w 3
  t0 := wordSample w 4
  t1 := wordSample w 5
  s6 := wordSample w 6
  v := wordSample w 7

/-! ## The tag matcher -/

/-- `Class` (42_classify.md R81, R82): four exact equalities of both components, OTH otherwise. -/
def classOf (c : Config) (t : Tag) : SubClass :=
  if t = c.tagBnd then .bnd
  else if t = c.tagX then .xax
  else if t = c.tagY then .yax
  else if t = c.tagZ then .zax
  else .oth

/-- The instruction of the three samples a ScanStep reads: `t0`, `t1` and `v` (40_scan_control.md R62). -/
def decodeFields (t0 t1 v : Sample) : Instr :=
  match classOf cfg (t0, t1) with
  | .bnd => .bnd
  | .xax => .xax v
  | .yax => .yax v
  | .zax => .zax v
  | .oth => .oth t0 t1 v

/-- The instruction of a sub-record word: total, since no encoding is illegal (30_encoding.md R52). -/
def decodeSubRecord (w : BitVec 128) : Instr :=
  decodeFields (wordSample w 4) (wordSample w 5) (wordSample w 7)

/-! ## The command pins -/

/-- Why a word is no instruction. -/
inductive DecodeError where
  /-- rst = 0 and start = 0: the host gives no command (10_state.md R21). -/
  | noCommand
  /-- A command word with a bit beyond the two pins `rst` and `start`. -/
  | notACommandWord
deriving DecidableEq, Repr

/-- The command the two input pins give: RESET wins (60_exceptions.md R96; rows RESET and START of the table). -/
def decodePins (rst start : Bool) : Except DecodeError Instr :=
  match rst, start with
  | true, _ => .ok .reset
  | false, true => .ok .start
  | false, false => .error .noCommand

/-- The command of a pin word: bit 1 is `rst`, bit 0 is `start`. -/
def decodeCommand (w : Nat) : Except DecodeError Instr :=
  if w < 4 then decodePins (w.testBit 1) (w.testBit 0) else .error .notACommandWord

/-! ## Words of both formats -/

/-- The two formats of the table: a sub-record word (SR) or a word of the two command pins (CMD). -/
inductive Code where
  | sr (w : BitVec 128)
  | cmd (pins : BitVec 2)
deriving DecidableEq, Repr

/-- Decoding, total on both formats, rejecting by name. -/
def decode : Code → Except DecodeError Instr
  | .sr w => .ok (decodeSubRecord w)
  | .cmd p => decodeCommand p.toNat

/-- A sub-record with the given tag and value sample and 0x0000 in every unused field (the short forms of R54). -/
def shortForm (t : Tag) (v : Sample) : SubRecord :=
  { s0 := 0, s1 := 0, s2 := 0, s3 := 0, t0 := t.1, t1 := t.2, s6 := 0, v := v }

/-- The encoder, from the table of R50 and the short forms of R54; a command sets its own pin alone. -/
def encode : Instr → Code
  | .bnd => .sr (packWord (shortForm cfg.tagBnd 0))
  | .xax v => .sr (packWord (shortForm cfg.tagX v))
  | .yax v => .sr (packWord (shortForm cfg.tagY v))
  | .zax v => .sr (packWord (shortForm cfg.tagZ v))
  | .oth t0 t1 v => .sr (packWord (shortForm (t0, t1) v))
  | .reset => .cmd 0b10#2
  | .start => .cmd 0b01#2

/-- The widest word read as a command word; every wider one is a sub-record word. Log 15. -/
def maxCommandBits : Nat := 32

/-- The instruction of an instruction's bits, numbered as spec/opcode_table.json numbers them. -/
def decodeTableWord (nbits w : Nat) : Option Instr :=
  if nbits ≤ maxCommandBits then (decodeCommand w).toOption
  else (decode (.sr (BitVec.ofNat 128 w))).toOption

/-! ## The table's rows as data -/

/-- One SR row of spec/opcode_table.json. -/
structure TableRow where
  cls : SubClass
  pattern : BitVec 128
  mask : BitVec 128
deriving DecidableEq, Repr

/-- The SR rows in the table's order, the default row last (30_encoding.md R50). -/
def subRecordTable : List TableRow :=
  [ ⟨.bnd, 0x00000000000000000000000000000000#128, 0x00000000FFFFFFFF0000000000000000#128⟩,
    ⟨.xax, 0x00000000000000020000000000000000#128, 0x00000000FFFFFFFF0000000000000000#128⟩,
    ⟨.yax, 0x00000000000100020000000000000000#128, 0x00000000FFFFFFFF0000000000000000#128⟩,
    ⟨.zax, 0x00000000000200020000000000000000#128, 0x00000000FFFFFFFF0000000000000000#128⟩,
    ⟨.oth, 0x00000000000000000000000000000000#128, 0x00000000000000000000000000000000#128⟩ ]

/-- Whether a row's pattern matches a word under its mask. -/
def TableRow.fits (r : TableRow) (w : BitVec 128) : Bool := w &&& r.mask == r.pattern

/-- The class of the first row that matches. -/
def firstRow : List TableRow → BitVec 128 → Option SubClass
  | [], _ => none
  | r :: rs, w => if r.fits w then some r.cls else firstRow rs w

end Sys2Proof
end

