-- ==== Sys2Proof/Machine/State.lean ====
section
/-! DEFINITION. The state of the machine, the ways a step can stop, and the state after reset (10_state.md). -/

namespace Sys2Proof.Machine

/-- The values of ST (10_state.md R13); its two-bit codes are the view `DecState.code`. -/
inductive DecState where
  | seekStart
  | wantX
  | wantY
  | wantZ
deriving DecidableEq, Repr

/-- An Orientation (10_state.md R18); its three-bit codes are the view `Orientation.code`. Codes 5 to 7 do not exist. -/
inductive Orientation where
  | normal
  | left
  | right
  /-- Defined and never produced (42_classify.md R84). -/
  | inverted
  | indeterminate
deriving DecidableEq, Repr

/-- One event of the output `mismatch_evt`: the index, ST before the step, the tag pair found (60_exceptions.md R91). -/
structure MismatchEvt where
  idx : BitVec 3
  st : DecState
  tag : Tag
deriving DecidableEq, Repr

/-- What the host does in one step (10_state.md R21, 70_reset_and_hazards.md R113). -/
inductive HostMove where
  /-- The levels of the two command inputs in the step; both low is no command. -/
  | pins (rst start : Bool)
  /-- `MemWrite(a, 1, v)`: the host writes one sample of BLK. -/
  | load (a : Nat) (v : Sample)
deriving DecidableEq, Repr

/-- BLK: pairs of a sample address and the sample there, addresses strictly rising; an unlisted address holds no value
(20_memory.md R30; log 1, log 3). -/
abbrev Memory := List (Nat × Sample)

/-- The ten registers of 10_state.md section 1, the input buffer BLK, the host's coming moves and the events shown. -/
structure State where
  /-- X (R10). -/
  x : Sample
  /-- Y (R10). -/
  y : Sample
  /-- Z (R10). -/
  z : Sample
  /-- ST (R13). -/
  st : DecState
  /-- IDX (R14). -/
  idx : BitVec 3
  /-- RUN (R15). -/
  run : Bool
  /-- DONE (R16). -/
  done : Bool
  /-- PKT (R17). -/
  pkt : Bool
  /-- MIS (R20). -/
  mis : Bool
  /-- RESULT (R18). -/
  result : Orientation
  /-- BLK, the host's buffer the block reads (R22, 20_memory.md R30; log 2). -/
  blk : Memory
  /-- The host's coming moves, one a step, the next one first; when it is empty the pins are low (log 4). -/
  inputs : List HostMove
  /-- The events the output `mismatch_evt` has shown, oldest first (R21, 60_exceptions.md R91; log 8). -/
  evtLog : List MismatchEvt
deriving DecidableEq, Repr

/-- Why the machine stops. The block itself never faults (00_scope.md section 6): each of these needs a state no run
reaches or a host write outside the buffer. -/
inductive Fault where
  /-- Raised by `fetch`: RUN = 1 with IDX = 7, which 10_state.md R25 rules out. Safe (log 9). -/
  | indexPastBlock
  /-- Raised by `fetch`: a scan reads sample address `a`, which was never loaded; START is refused before (20_memory.md R30). Safe (log 9). -/
  | sampleNotLoaded (a : Nat)
  /-- Raised by `hostLoad`: the host writes sample address `a`, and BLK has the addresses 0 to 55 only (20_memory.md R30). Safe (log 7). -/
  | hostWriteOutsideBlk (a : Nat)
deriving DecidableEq, Repr

/-- Why a step is refused. -/
inductive Refusal where
  /-- Raised by exec's arm of an instruction that has no meaning yet. Safe. -/
  | notModelled (mnemonic : String)
  /-- Raised by `execStart`: START before all 56 samples of BLK are loaded (20_memory.md R30, 40_scan_control.md R61). Safe (log 5). -/
  | startBeforeBlkLoaded
  /-- Raised by `hostLoad`: the host writes BLK while RUN = 1 (20_memory.md R39). Unsafe, as the spec itself says (log 6). -/
  | blkWrittenDuringScan
deriving DecidableEq, Repr

/-- The machine right after reset: 10_state.md R24, nothing loaded in BLK, no host move to come, no event shown. -/
def State.reset : State where
  x := 0x0000
  y := 0x0000
  z := 0x0000
  st := .seekStart
  idx := 0
  run := false
  done := false
  pkt := false
  mis := false
  result := .indeterminate
  blk := []
  inputs := []
  evtLog := []

end Sys2Proof.Machine
end

