-- ==== Sys2Proof/Machine/Flags.lean ====
section
/-! DEFINITION. The orientation classifier, the updates of RUN, DONE, PKT, MIS and RESULT, and the computed `cause`
(10_state.md R15 to R20, 42_classify.md R83 to R86, 60_exceptions.md R90). -/

namespace Sys2Proof.Machine

/-- `Classify(x, y)` (42_classify.md R83): exact equalities with K_LO and K_HI, never Inverted (R84, R85). -/
def classify (c : Config) (x y : Sample) : Orientation :=
  if y = c.kHi ∧ (x = c.kHi ∨ x = c.kLo) then .normal
  else if x = c.kLo ∧ y = c.kLo then .left
  else if x = c.kHi ∧ y = c.kLo then .right
  else .indeterminate

/-- The flags and RESULT that RESET and START share: DONE, PKT, MIS to 0, RESULT to Indeterminate (R60, R61). -/
def clearFlags (s : State) : State :=
  { s with done := false, pkt := false, mis := false, result := .indeterminate }

/-- The flags and RESULT of a completed packet (40_scan_control.md R64): PKT and DONE to 1, RUN to 0, RESULT from X and Y. -/
def completionFlags (s : State) : State :=
  { s with pkt := true, result := classify cfg s.x s.y, done := true, run := false }

/-- EndOfScan (40_scan_control.md R63): RESULT to Indeterminate, DONE to 1, RUN to 0. -/
def endOfScan (s : State) : State :=
  { s with result := .indeterminate, done := true, run := false }

/-- The error taxonomy of 60_exceptions.md R90. -/
inductive ErrorKind where
  | noError
  | decodeMismatch
  | incompleteBlock
  | unrecognizedOrientation
  /-- Of the host, never of the block (R94). -/
  | fatalIO
deriving DecidableEq, Repr

/-- The codes of R90. -/
def ErrorKind.code : ErrorKind → Nat
  | .noError => 0
  | .decodeMismatch => 1
  | .incompleteBlock => 2
  | .unrecognizedOrientation => 3
  | .fatalIO => 4

/-- What `cause` tells (10_state.md R19), its three clauses in the rule's order. -/
def causeKind (s : State) : ErrorKind :=
  if s.done = false ∨ s.result ≠ .indeterminate then .noError
  else if s.pkt = false then .incompleteBlock
  else .unrecognizedOrientation

end Sys2Proof.Machine
end

