-- ==== Sys2Proof/Machine/Ops.lean ====
section
/-! DEFINITION. The named operations over BLK and the registers, the event DecodeMismatch, and the tail of a ScanStep
(20_memory.md, 40_scan_control.md R62 to R64, 41_subrecord_ops.md R75, R76). -/

namespace Sys2Proof.Machine

/-! ## BLK -/

/-- `BLK[a]`; none where the host has loaded nothing (20_memory.md R30). -/
def Memory.read : Memory → Nat → Option Sample
  | [], _ => none
  | (b, v) :: m, a => if a = b then some v else Memory.read m a

/-- `MemWrite(a, 1, v)`, keeping the addresses rising (70_reset_and_hazards.md R113). -/
def Memory.write : Memory → Nat → Sample → Memory
  | [], a, v => [(a, v)]
  | (b, w) :: m, a, v =>
    if a < b then (a, v) :: (b, w) :: m
    else if a = b then (a, v) :: m
    else (b, w) :: Memory.write m a v

/-- Every address listed is above `lo - 1`, below BLOCK_LEN, and above the one before it. -/
def Memory.risingFrom : Nat → Memory → Bool
  | _, [] => true
  | lo, (b, _) :: m => decide (lo ≤ b) && decide (b < cfg.blockLen) && Memory.risingFrom (b + 1) m

/-- The canonical form: addresses strictly rising and all in 0 to 55 (20_memory.md R30; log 3). -/
def Memory.wf (m : Memory) : Bool := Memory.risingFrom 0 m

/-- Whether the host has loaded all BLOCK_LEN samples (20_memory.md R30). -/
def Memory.loaded (m : Memory) : Bool :=
  (List.range cfg.blockLen).all fun a => (m.read a).isSome

/-- The host's write of one sample (70_reset_and_hazards.md R113): refused while RUN = 1 (20_memory.md R39). -/
def hostLoad (a : Nat) (v : Sample) (s : State) : Host.Outcome State Fault Refusal :=
  if s.run then .refused .blkWrittenDuringScan
  else if a < cfg.blockLen then .next { s with blk := s.blk.write a v }
  else .fault (.hostWriteOutsideBlk a)

/-! ## Registers -/

/-- `X <- 0x0000; Y <- 0x0000; Z <- 0x0000` (10_state.md R11). -/
def clearXYZ (s : State) : State := { s with x := 0x0000, y := 0x0000, z := 0x0000 }

/-- `X <- v` (10_state.md R11). -/
def setX (v : Sample) (s : State) : State := { s with x := v }

/-- `Y <- v` (10_state.md R11). -/
def setY (v : Sample) (s : State) : State := { s with y := v }

/-- `Z <- v` (10_state.md R11). -/
def setZ (v : Sample) (s : State) : State := { s with z := v }

/-- `ST <- d` (10_state.md R13). -/
def setSt (d : DecState) (s : State) : State := { s with st := d }

/-- The writes RESET and START share (40_scan_control.md R60, R61): all but RUN. -/
def initRegisters (s : State) : State :=
  clearFlags { clearXYZ s with st := .seekStart, idx := 0 }

/-- The one class that matches in each state (41_subrecord_ops.md section 3, law 2). -/
def wantedClass : DecState → SubClass
  | .seekStart => .bnd
  | .wantX => .xax
  | .wantY => .yax
  | .wantZ => .zax

/-! ## Taking the one exception, DecodeMismatch

There is no handler, no saved state and no return (60_exceptions.md R97, R98): the event's whole effect is these writes,
and the scan goes on with the next sub-record. -/

/-- `Mismatch()` (41_subrecord_ops.md R75): ST to SeekStart, MIS to 1, and the event with IDX, ST before the step and the tag. -/
def mismatch (t : Tag) (s : State) : State :=
  { s with st := .seekStart, mis := true, evtLog := s.evtLog ++ [⟨s.idx, s.st, t⟩] }

/-- `Skip()` (41_subrecord_ops.md R76): nothing is written. -/
def skip (s : State) : State := s

/-! ## The tail of a ScanStep -/

/-- `IDX <- IDX + 1` (10_state.md R14). -/
def advance (s : State) : State := { s with idx := s.idx + 1 }

/-- The tail of a step that completed no packet (40_scan_control.md R62): IDX advances, and the seventh sub-record ends the scan (R63). -/
def scanTail (s : State) : State :=
  if s.idx.toNat + 1 = cfg.nsub then endOfScan (advance s) else advance s

/-- Completion (40_scan_control.md R64): `Z <- v` and the flags; IDX advances, and EndOfScan does not apply. -/
def complete (v : Sample) (s : State) : State := advance (completionFlags (setZ v s))

end Sys2Proof.Machine
end

