-- ==== Sys2Proof/Machine/Operands.lean ====
section
/-! DEFINITION. The sample addresses and the three samples a ScanStep reads (20_memory.md R31, R32, R35, R41;
30_encoding.md R48; 42_classify.md R80). -/

namespace Sys2Proof.Machine

/-- The address of offset `k` of sub-record `i`: `8*i + k` (20_memory.md R31). -/
def sampleAddr (i k : Nat) : Nat := cfg.subrecLen * i + k

/-- `MemRead(a, 1)` by the scan engine; a fault where nothing was ever loaded. -/
def memRead (m : Memory) (a : Nat) : Except Fault Sample :=
  match m.read a with
  | some v => .ok v
  | none => .error (.sampleNotLoaded a)

/-- `Tag(i)` (42_classify.md R80): the sample at the lower offset first. -/
def tagOf (m : Memory) (i : Nat) : Except Fault Tag :=
  match memRead m (sampleAddr i cfg.tag0Off), memRead m (sampleAddr i cfg.tag1Off) with
  | .ok t0, .ok t1 => .ok (t0, t1)
  | .error f, _ => .error f
  | _, .error f => .error f

/-- `Val(i)` (30_encoding.md R48). -/
def valOf (m : Memory) (i : Nat) : Except Fault Sample := memRead m (sampleAddr i cfg.valOff)

/-- The addresses the ScanStep of sub-record `i` reads (20_memory.md R32, R35). -/
def readAddrs (i : Nat) : List Nat :=
  [sampleAddr i cfg.tag0Off, sampleAddr i cfg.tag1Off, sampleAddr i cfg.valOff]

end Sys2Proof.Machine
end

