-- ==== Sys2Proof/Machine/Command.lean ====
section
/-! DEFINITION. The host commands RESET and START (40_scan_control.md R60, R61). -/

namespace Sys2Proof.Machine

/-- RESET (R60): every register to its reset value; BLK is not touched. -/
def execReset (s : State) : Host.Outcome State Fault Refusal :=
  .next { initRegisters s with run := false }

/-- START (R61): every register to its start-of-scan value, RUN to 1; refused while BLK is not fully loaded (20_memory.md R30). -/
def execStart (s : State) : Host.Outcome State Fault Refusal :=
  if s.blk.loaded then .next { initRegisters s with run := true } else .refused .startBeforeBlkLoaded

end Sys2Proof.Machine
end

