-- ==== Sys2Proof/Machine/SubRecord.lean ====
section
/-! DEFINITION. The five sub-record operations with the tail of their ScanStep (41_subrecord_ops.md R70 to R74). Whether a
ScanStep happens at all (RUN = 1, 40_scan_control.md R62) is `fetch`'s; see log 9. -/

namespace Sys2Proof.Machine

/-- BND (R70). -/
def execBnd (s : State) : Host.Outcome State Fault Refusal :=
  match s.st with
  | .seekStart => .next (scanTail (setSt .wantX (clearXYZ s)))
  | .wantX | .wantY | .wantZ => .next (scanTail (mismatch cfg.tagBnd s))

/-- XAX v (R71). -/
def execXax (v : Sample) (s : State) : Host.Outcome State Fault Refusal :=
  match s.st with
  | .seekStart => .next (scanTail (skip s))
  | .wantX => .next (scanTail (setSt .wantY (setX v s)))
  | .wantY | .wantZ => .next (scanTail (mismatch cfg.tagX s))

/-- YAX v (R72). -/
def execYax (v : Sample) (s : State) : Host.Outcome State Fault Refusal :=
  match s.st with
  | .seekStart => .next (scanTail (skip s))
  | .wantY => .next (scanTail (setSt .wantZ (setY v s)))
  | .wantX | .wantZ => .next (scanTail (mismatch cfg.tagY s))

/-- ZAX v (R73): in WantZ it completes the packet; ST stays WantZ, and Classify reads X and Y from before the step. -/
def execZax (v : Sample) (s : State) : Host.Outcome State Fault Refusal :=
  match s.st with
  | .seekStart => .next (scanTail (skip s))
  | .wantZ => .next (complete v s)
  | .wantX | .wantY => .next (scanTail (mismatch cfg.tagZ s))

/-- OTH t0, t1 (R74); its value sample is read and ignored. -/
def execOth (t0 t1 : Sample) (s : State) : Host.Outcome State Fault Refusal :=
  match s.st with
  | .seekStart => .next (scanTail (skip s))
  | .wantX | .wantY | .wantZ => .next (scanTail (mismatch (t0, t1) s))

end Sys2Proof.Machine
end

