-- ==== Sys2Proof/Machine/Dispatch.lean ====
section
/-! DEFINITION. One arm per constructor of Instr. -/

namespace Sys2Proof.Machine

def exec (i : Instr) (s : State) : Host.Outcome State Fault Refusal :=
  match i with
  | .bnd => Sys2Proof.Machine.execBnd s
  | .xax v => Sys2Proof.Machine.execXax v s
  | .yax v => Sys2Proof.Machine.execYax v s
  | .zax v => Sys2Proof.Machine.execZax v s
  | .oth t0 t1 _ => Sys2Proof.Machine.execOth t0 t1 s
  | .reset => Sys2Proof.Machine.execReset s
  | .start => Sys2Proof.Machine.execStart s

end Sys2Proof.Machine
end

