-- ==== Sys2Proof/Machine/Fetch.lean ====
section
/-! DEFINITION. What the next step does: a host write, a command, a ScanStep of the sub-record IDX selects, or nothing
(40_scan_control.md R62, R65; 60_exceptions.md R96), and how a given word is placed so that it is next. -/

namespace Sys2Proof.Machine

/-- The host's move of this step; with none to come the pins are low (log 4). -/
def nextMove (s : State) : HostMove := s.inputs.headD (.pins false false)

/-- The state with this step's host move taken. -/
def dropMove (s : State) : State := { s with inputs := s.inputs.tail }

/-- The instruction in the sub-record that IDX selects (40_scan_control.md R62); `0 <= IDX <= 6` (10_state.md R14). -/
def fetchSubRecord (s : State) : Except Fault Instr :=
  if s.idx.toNat < cfg.nsub then
    match tagOf s.blk s.idx.toNat, valOf s.blk s.idx.toNat with
    | .ok (t0, t1), .ok v => .ok (decodeFields t0 t1 v)
    | .error f, _ => .error f
    | _, .error f => .error f
  else .error .indexPastBlock

/-- What a step finds to do. -/
inductive Fetched where
  /-- No command and RUN = 0: the scan engine has no step (R65). -/
  | idle
  /-- The host writes a sample. -/
  | write (a : Nat) (v : Sample)
  /-- A command, or the sub-record of an enabled ScanStep. -/
  | instr (i : Instr)
  | stop (f : Fault)
deriving DecidableEq, Repr

/-- RESET over START over ScanStep (60_exceptions.md R96); a ScanStep only if RUN = 1 (40_scan_control.md R62). -/
def fetch (s : State) : Fetched :=
  match nextMove s with
  | .load a v => .write a v
  | .pins rst start =>
    match decodePins rst start with
    | .ok i => .instr i
    | .error _ =>
      if s.run then
        match fetchSubRecord s with
        | .ok i => .instr i
        | .error f => .stop f
      else .idle

/-! ## Placing a word where the next step finds it (log 14) -/

/-- `n` addresses from `a` on, each with the sample listed for it or else 0x0000, before the rest of the listing. -/
def Memory.fillFrom : Nat → Nat → Memory → Memory
  | 0, _, m => m
  | n + 1, a, [] => (a, 0x0000) :: Memory.fillFrom n (a + 1) []
  | n + 1, a, (b, v) :: m =>
    if b = a then (b, v) :: Memory.fillFrom n (a + 1) m else (a, 0x0000) :: Memory.fillFrom n (a + 1) ((b, v) :: m)

/-- BLK with 0x0000 at every address the host has not loaded. -/
def Memory.filled (m : Memory) : Memory := Memory.fillFrom cfg.blockLen 0 m

/-- The command pins as the host's next move; for START, BLK loaded as START needs it (20_memory.md R30). -/
def placeCommand (w : Nat) (s : State) : State :=
  { s with
    inputs := .pins (w.testBit 1) (w.testBit 0) :: s.inputs
    blk := if w = 1 then s.blk.filled else s.blk }

/-- The eight samples of a sub-record word at sub-record `i` of BLK (30_encoding.md R46, 20_memory.md R31). -/
def Memory.placeWord (m : Memory) (i : Nat) (w : BitVec 128) : Memory :=
  (List.range cfg.subrecLen).foldl (fun m k => m.write (sampleAddr i k) (wordSample w k)) m

/-- A scan under way (RUN = 1, no command in the step) at the sub-record that holds the word. -/
def placeSubRecord (w : BitVec 128) (s : State) : State :=
  let i : BitVec 3 := if s.idx.toNat < cfg.nsub then s.idx else 0
  { s with
    inputs := .pins false false :: s.inputs
    run := true
    idx := i
    blk := s.blk.placeWord i.toNat w }

/-- `placeCommand` or `placeSubRecord`, as `decodeTableWord` reads the word. -/
def placeWord (nbits w : Nat) (s : State) : State :=
  if nbits ≤ maxCommandBits then placeCommand w s else placeSubRecord (BitVec.ofNat 128 w) s

end Sys2Proof.Machine
end

