-- ==== Sys2Proof/Machine/Step.lean ====
section
/-! DEFINITION. One step of the machine (00_scope.md R9). -/

namespace Sys2Proof.Machine

/-- RESET, START, ScanStep, a host write, or nothing, as `fetch` says; a refused or faulting step has no next state. -/
def step (s : State) : Host.Outcome State Fault Refusal :=
  match fetch s with
  | .idle => .next (dropMove s)
  | .write a v => hostLoad a v (dropMove s)
  | .instr i => exec i (dropMove s)
  | .stop f => .fault f

/-- The state with the instruction of `decodeTableWord nbits w` stored where `step` fetches next (log 14). -/
def State.withFetchWord (s : State) (nbits w : Nat) : State := placeWord nbits w s

end Sys2Proof.Machine
end

