-- ==== Sys2Proof/Machine/Block.lean ====
section
/-! DEFINITION. RawBlocks, how one is written as a listing (30_encoding.md R54 to R56), how it lies in BLK, and the host's
moves that load it (70_reset_and_hazards.md R112, R113). -/

namespace Sys2Proof.Machine

/-- A RawBlock: exactly 56 samples (20_memory.md R30, 30_encoding.md R56). -/
abbrev RawBlock := Vector Sample 56

/-- `blk[a]` for a sample address `a`, 0 to 55. -/
def RawBlock.at (b : RawBlock) (a : Nat) : Sample := b.toList.getD a 0

/-- The block a full read gives; a read of any other length gives none (60_exceptions.md R94). -/
def RawBlock.ofRead (l : List Sample) : Option RawBlock :=
  if h : l.length = 56 then some ⟨l.toArray, by simpa using h⟩ else none

/-- The eight samples of a sub-record in address order (30_encoding.md R45). -/
def samplesOf (r : SubRecord) : List Sample := [r.s0, r.s1, r.s2, r.s3, r.t0, r.t1, r.s6, r.v]

/-- A listing of sub-records, sub-record 0 first; only seven of them are a RawBlock (30_encoding.md R56). -/
def RawBlock.ofListing (l : List SubRecord) : Option RawBlock := RawBlock.ofRead (l.flatMap samplesOf)

/-- PAD (30_encoding.md R55). -/
def padForm : SubRecord := shortForm (0x0001, 0x0000) 0x0000

/-- PKT x, y, z (30_encoding.md R55). -/
def pktForm (x y z : Sample) : List SubRecord :=
  [shortForm cfg.tagBnd 0, shortForm cfg.tagX x, shortForm cfg.tagY y, shortForm cfg.tagZ z]

/-- BLK once the host has loaded a block (20_memory.md R30). -/
def Memory.ofBlock (b : RawBlock) : Memory := (List.range cfg.blockLen).map fun a => (a, b.at a)

/-- The host's 56 writes of a block, in address order; R113 allows any order. -/
def hostLoads (b : RawBlock) : List HostMove := (List.range cfg.blockLen).map fun a => .load a (b.at a)

/-- The host's moves (2) and (3) of 70_reset_and_hazards.md R112: load all 56 samples, then START. -/
def hostScript (b : RawBlock) : List HostMove := hostLoads b ++ [.pins false true]

end Sys2Proof.Machine
end

