-- ==== Sys2Proof/Machine/FrontEnd.lean ====
section
/-! DEFINITION. A byte-serial front end that fills BLK, outside the block: the only place a byte order exists (20_memory.md R33; log 12). -/

namespace Sys2Proof.Machine

/-- The sample of two successive bytes of the stream. -/
def sampleOfBytes (o : ByteOrder) (first second : BitVec 8) : Sample :=
  match o with
  | .little => second ++ first
  | .big => first ++ second

/-- The samples of a byte stream; a last byte without a partner makes no sample. -/
def samplesOfBytes (o : ByteOrder) : List (BitVec 8) → List Sample
  | b0 :: b1 :: bs => sampleOfBytes o b0 b1 :: samplesOfBytes o bs
  | [_] => []
  | [] => []

/-- The front end of this machine: its order is the open parameter BYTE_ORDER. -/
def frontEnd (bytes : List (BitVec 8)) : List Sample := samplesOfBytes Config.byteOrder bytes

end Sys2Proof.Machine
end

