-- ==== Sys2Proof/Machine/Run.lean ====
section
/-! DEFINITION. Runs of the machine, and the host's call of the block (70_reset_and_hazards.md R112). -/

namespace Sys2Proof.Machine

/-- `n` steps, stopping at the first that has no next state. -/
def runSteps : Nat → State → Host.Outcome State Fault Refusal
  | 0, s => .next s
  | n + 1, s =>
    match step s with
    | .next t => runSteps n t
    | .fault f => .fault f
    | .refused r => .refused r

/-- At most `n` steps, waiting for DONE = 1 (R112 step 4). -/
def waitDone : Nat → State → Host.Outcome State Fault Refusal
  | 0, s => .next s
  | n + 1, s =>
    if s.done then .next s
    else
      match step s with
      | .next t => waitDone n t
      | .fault f => .fault f
      | .refused r => .refused r

/-- One `decode(block)` by the host: load BLK, START, wait for DONE (R112 steps 2 to 4; a scan takes at most 7 steps, R67). -/
def hostDecode (b : RawBlock) (s : State) : Host.Outcome State Fault Refusal :=
  match runSteps 57 { s with inputs := hostScript b } with
  | .next t => waitDone 7 t
  | .fault f => .fault f
  | .refused r => .refused r

end Sys2Proof.Machine
end

