-- ==== Sys2Proof/Machine/Monitor.lean ====
section
/-! DEFINITION. The block's environment: the OrientationMonitor loop (60_exceptions.md R100 to R106). It is outside the block and
no part of State (00_scope.md R4); log 13. -/

namespace Sys2Proof.Machine

/-- What the monitor does to the outside, in order. -/
inductive HostAction where
  /-- Waits a number of time units (R101). -/
  | wait (units : Nat)
  /-- Reads the input source (R101, R106), opening it first: DESIGN CHOICE, the spec does not say when it is opened (log 17). -/
  | readSource
  /-- Invokes the apply collaborator, whose outcome is not consulted (R103, R106). -/
  | apply (o : Orientation)
  /-- FatalIO: the process terminates with a non-zero status (R94, R105). -/
  | terminate
deriving DecidableEq, Repr

/-- The monitor's two variables (R100), whether FatalIO has ended it (R105), and what it has done, oldest first. -/
structure Monitor where
  lastDecoded : Option Orientation
  lastApplied : Option Orientation
  terminated : Bool
  trace : List HostAction
deriving DecidableEq, Repr

/-- Both variables "none" (R100). -/
def Monitor.initial : Monitor where
  lastDecoded := none
  lastApplied := none
  terminated := false
  trace := []

/-- The monitor with one more action done. -/
def Monitor.act (a : HostAction) (m : Monitor) : Monitor := { m with trace := m.trace ++ [a] }

/-- Steps 4 to 6 of the loop on a decoded orientation (R102, R103, R104). -/
def Monitor.judge (current : Orientation) (m : Monitor) : Monitor :=
  if current = .indeterminate then m
  else if some current = m.lastApplied then { m with lastDecoded := some current }
  else { m.act (.apply current) with lastApplied := some current, lastDecoded := some current }

/-- One iteration (R101): wait, read, decode, judge; a source that cannot be opened (none) or a short read ends the process (R94, R105).
DESIGN CHOICE: the source is opened in the iteration's read, so an open that fails ends the process after that iteration's wait and
never at initialization; R106 says only that it is bound at initialization to a device path (log 17). -/
def Monitor.poll (read : Option (List Sample)) (m : Monitor) (s : State) :
    Host.Outcome (Monitor × State) Fault Refusal :=
  if m.terminated then .next (m, s)
  else
    match read.bind RawBlock.ofRead with
    | none => .next ({ ((m.act (.wait 1)).act .readSource).act .terminate with terminated := true }, s)
    | some b =>
      match hostDecode b s with
      | .next t => .next (((m.act (.wait 1)).act .readSource).judge t.result, t)
      | .fault f => .fault f
      | .refused r => .refused r

/-- The iterations over a sequence of reads. -/
def Monitor.pollAll : List (Option (List Sample)) → Monitor → State → Host.Outcome (Monitor × State) Fault Refusal
  | [], m, s => .next (m, s)
  | r :: rs, m, s =>
    match Monitor.poll r m s with
    | .next (m', s') => Monitor.pollAll rs m' s'
    | .fault f => .fault f
    | .refused q => .refused q

/-- The orientations the apply collaborator was invoked with, in order. -/
def Monitor.applied (m : Monitor) : List Orientation :=
  m.trace.filterMap fun
    | .apply o => some o
    | .wait _ => none
    | .readSource => none
    | .terminate => none

end Sys2Proof.Machine
end

