-- ==== Sys2Proof/Machine/Outputs.lean ====
section
/-! DEFINITION. The block's output ports, read-only views of the state (10_state.md R21), and the numeric codes they carry. -/

namespace Sys2Proof.Machine

/-- The two-bit code of ST (10_state.md R13). -/
def DecState.code : DecState → BitVec 2
  | .seekStart => 0
  | .wantX => 1
  | .wantY => 2
  | .wantZ => 3

/-- The three-bit code of an Orientation (10_state.md R18). -/
def Orientation.code : Orientation → BitVec 3
  | .normal => 0
  | .left => 1
  | .right => 2
  | .inverted => 3
  | .indeterminate => 4

/-- The outputs of R21, but for the events of `mismatch_evt`. -/
structure Outputs where
  run : Bool
  done : Bool
  pkt : Bool
  mis : Bool
  result : BitVec 3
  cause : BitVec 2
  stOut : BitVec 2
  idxOut : BitVec 3
  xOut : Sample
  yOut : Sample
  zOut : Sample
  /-- The addresses `blk_addr` presents in the next ScanStep, in the order of R62; none while no scan runs (log 10). -/
  blkAddr : List (BitVec 6)
deriving DecidableEq, Repr

/-- The outputs of a state (10_state.md R19, R21). -/
def outputs (s : State) : Outputs where
  run := s.run
  done := s.done
  pkt := s.pkt
  mis := s.mis
  result := s.result.code
  cause := BitVec.ofNat 2 (causeKind s).code
  stOut := s.st.code
  idxOut := s.idx
  xOut := s.x
  yOut := s.y
  zOut := s.z
  blkAddr := if s.run then (readAddrs s.idx.toNat).map (BitVec.ofNat 6) else []

/-- The events `mismatch_evt` shows between two states of a run. -/
def emitted (before after : State) : List MismatchEvt := after.evtLog.drop before.evtLog.length

end Sys2Proof.Machine
end

