-- ==== Sys2Proof/Machine/Reference.lean ====
section
/-! DEFINITION. The reference function `decode` (40_scan_control.md R66), transcribed beside the step machine. -/

namespace Sys2Proof.Machine

/-- What the reference function returns, with its locals at the return and whether it returned from the WantZ arm. -/
structure DecodeReturn where
  result : Orientation
  fromWantZ : Bool
  examined : Nat
  st : DecState
  x : Sample
  y : Sample
  z : Sample
deriving DecidableEq, Repr

/-- The loop of R66 over the `n` sub-records from `i` on. -/
def decodeLoop (b : RawBlock) : Nat → Nat → DecState → Sample → Sample → Sample → DecodeReturn
  | 0, i, st, x, y, z => ⟨.indeterminate, false, i, st, x, y, z⟩
  | n + 1, i, st, x, y, z =>
    let t : Tag := (b.at (8 * i + 4), b.at (8 * i + 5))
    let v := b.at (8 * i + 7)
    match st with
    | .seekStart =>
      if t = cfg.tagBnd then decodeLoop b n (i + 1) .wantX 0 0 0 else decodeLoop b n (i + 1) .seekStart x y z
    | .wantX =>
      if t = cfg.tagX then decodeLoop b n (i + 1) .wantY v y z else decodeLoop b n (i + 1) .seekStart x y z
    | .wantY =>
      if t = cfg.tagY then decodeLoop b n (i + 1) .wantZ x v z else decodeLoop b n (i + 1) .seekStart x y z
    | .wantZ =>
      if t = cfg.tagZ then ⟨classify cfg x y, true, i + 1, .wantZ, x, y, v⟩
      else decodeLoop b n (i + 1) .seekStart x y z

/-- `decode(blk)` of R66 with its locals. -/
def decodeRun (b : RawBlock) : DecodeReturn := decodeLoop b 7 0 .seekStart 0 0 0

/-- `decode(blk) -> Orientation` (R66). -/
def decodeBlock (b : RawBlock) : Orientation := (decodeRun b).result

/-- The class of sub-record `i` of a block (42_classify.md R80, R81). -/
def blockClass (b : RawBlock) (i : Nat) : SubClass := classOf cfg (b.at (8 * i + 4), b.at (8 * i + 5))

end Sys2Proof.Machine
end

