-- ==== Sys2Proof/Safety.lean ====
section
/-! DEFINITION. What counts as a legal state and a safe run, in the terms the statements use (10_state.md R25). -/

namespace Sys2Proof.Machine

/-- The clauses (a) to (h) of 10_state.md R25. -/
structure State.ScanInv (s : State) : Prop where
  notBoth : ¬(s.run = true ∧ s.done = true)
  running : s.run = true → s.idx.toNat ≤ 6 ∧ s.pkt = false ∧ s.result = .indeterminate
  packet : s.pkt = true → s.done = true ∧ s.st = .wantZ ∧ 4 ≤ s.idx.toNat
  incomplete : s.done = true → s.pkt = false → s.idx.toNat = 7 ∧ s.result = .indeterminate
  notInverted : s.result ≠ .inverted
  determinate : s.result ≠ .indeterminate → s.pkt = true ∧ s.result = classify cfg s.x s.y
  heldX : s.run = true → s.st = .wantX → s.x = 0 ∧ s.y = 0 ∧ s.z = 0
  heldY : s.run = true → s.st = .wantY → s.y = 0 ∧ s.z = 0
  heldZ : s.run = true → s.st = .wantZ → s.z = 0
  matched : s.run = true → s.st.code.toNat ≤ s.idx.toNat

/-- BLK is in its canonical form, and it is fully loaded while a scan runs (20_memory.md R30, R39). -/
structure State.BlkInv (s : State) : Prop where
  canonical : s.blk.wf = true
  loadedInScan : s.run = true → s.blk.loaded = true

/-- The legal states. -/
structure State.Inv (s : State) : Prop where
  scan : s.ScanInv
  blk : s.BlkInv

/-- A host that keeps 70_reset_and_hazards.md R113 and R114 in this step: it writes inside BLK, and only while RUN = 0. -/
def State.hostObeys (s : State) : Prop :=
  ∀ a v, nextMove s = .load a v → s.run = false ∧ a < cfg.blockLen

/-- The states some run reaches from RESET, whatever the host does (10_state.md R25). -/
inductive Reachable : State → Prop where
  | fromReset (moves : List HostMove) : Reachable { State.reset with inputs := moves }
  | bySteps {s t : State} (before : Reachable s) (h : step s = .next t) : Reachable t

/-- The ten registers of 10_state.md section 1 agree. -/
structure SameRegisters (s t : State) : Prop where
  x : t.x = s.x
  y : t.y = s.y
  z : t.z = s.z
  st : t.st = s.st
  idx : t.idx = s.idx
  run : t.run = s.run
  done : t.done = s.done
  pkt : t.pkt = s.pkt
  mis : t.mis = s.mis
  result : t.result = s.result

/-- The step is a ScanStep that runs sub-record instruction `i` (40_scan_control.md R62). -/
def scans (s : State) (i : Instr) : Prop := fetch s = .instr i ∧ ∃ c, i.subClass = some c

/-- `i` is the sub-record that completes a packet in this state (41_subrecord_ops.md R73). -/
def completes (s : State) (i : Instr) : Prop := s.st = .wantZ ∧ i.subClass = some .zax

/-- `i` is a sub-record that mismatches in this state (41_subrecord_ops.md R75). -/
def mismatches (s : State) (i : Instr) : Prop :=
  s.st ≠ .seekStart ∧ ∃ c, i.subClass = some c ∧ c ≠ wantedClass s.st

/-- The host loads a block, issues START, and does nothing more (70_reset_and_hazards.md R112). -/
def hostCalls (b : RawBlock) (s : State) : State := { s with inputs := hostScript b }

/-- The state after `n` ScanSteps of the scan of `b` that the host starts in `s`: 56 writes, START, `n` steps. -/
def afterScanSteps (b : RawBlock) (s : State) (n : Nat) : Host.Outcome State Fault Refusal :=
  runSteps (57 + n) (hostCalls b s)

/-- The value sample of sub-record `i` is captured in the scan of `b` started in `s` (41_subrecord_ops.md R71 to R73). -/
def captured (b : RawBlock) (s : State) (i : Nat) : Prop :=
  ∃ m t, afterScanSteps b s m = .next t ∧ t.run = true ∧ t.idx.toNat = i ∧
    blockClass b i = wantedClass t.st ∧ t.st ≠ .seekStart

end Sys2Proof.Machine
end

