-- ==== Sys2Proof/Certificates/Slice0/Obligations.lean ====
section
/-! DEFINITION. The statements for the provers. Rules are cited by number with their file; log <n> is notes/assumptions/<n>.md. -/

namespace Sys2Proof.Claims
open Sys2Proof.Machine

/-- `r` with the tail of a ScanStep that began in `s` and completed no packet: IDX advances, and at the seventh
sub-record RESULT, DONE and RUN are those of EndOfScan (40_scan_control.md R62, R63). -/
def withTail (s r : State) : State :=
  { r with
    idx := s.idx + 1
    run := if s.idx = 6 then false else r.run
    done := if s.idx = 6 then true else r.done
    result := if s.idx = 6 then .indeterminate else r.result }

/-- The writes of the Mismatch action on tag `t` (41_subrecord_ops.md R75). -/
def withMismatch (s : State) (t : Tag) : State :=
  { s with st := .seekStart, mis := true, evtLog := s.evtLog ++ [⟨s.idx, s.st, t⟩] }

/-- The writes of a completed packet with value sample `v`; X and Y are those of before the step (40_scan_control.md R64). -/
def withCompletion (s : State) (v : Sample) : State :=
  { s with z := v, pkt := true, result := classify cfg s.x s.y, done := true, run := false, idx := s.idx + 1 }

/-- The registers of 10_state.md R24, with RUN as given. -/
def withFreshRegisters (s : State) (run : Bool) : State :=
  { s with
    x := 0x0000, y := 0x0000, z := 0x0000, st := .seekStart, idx := 0, run := run, done := false, pkt := false,
    mis := false, result := .indeterminate }

/-- The host gives no command and writes nothing in this step. -/
def hostSilent (s : State) : Prop := nextMove s = .pins false false

end Sys2Proof.Claims

open Sys2Proof Sys2Proof.Machine Sys2Proof.Claims

/-! ## Reset and the host's commands -/

/-- 10_state.md R24: the values after RESET, from every state, `cause` among them, and what the block then does: it waits. `State.reset`
holds the same values. -/
def Obligations.RegistersAfterReset : Prop :=
  (∀ s : State, ∃ t, exec .reset s = .next t ∧ t.x = 0x0000 ∧ t.y = 0x0000 ∧ t.z = 0x0000 ∧ t.st = .seekStart ∧
    t.idx = 0 ∧ t.run = false ∧ t.done = false ∧ t.pkt = false ∧ t.mis = false ∧ t.result = .indeterminate ∧
    (outputs t).cause = 0 ∧ (hostSilent t → ∃ u, step t = .next u ∧ SameRegisters t u)) ∧
  SameRegisters State.reset (withFreshRegisters State.reset false) ∧ (outputs State.reset).cause = 0

/-- 40_scan_control.md R60: the writes of RESET, from every state; BLK is not touched; RESET wins over whatever else the step would do. -/
def Obligations.ResetClearsEveryRegister : Prop :=
  (∀ s : State, exec .reset s = .next (withFreshRegisters s false)) ∧
  (∀ (s : State) (start : Bool) (rest : List HostMove), s.inputs = .pins true start :: rest →
    step s = .next (withFreshRegisters { s with inputs := rest } false))

/-- 40_scan_control.md R61: the writes of START from every state, a running scan included; refused unless BLK is loaded. -/
def Obligations.StartBeginsAFreshScan : Prop :=
  (∀ s : State, (∀ a, a < 56 → ∃ v, s.blk.read a = some v) → exec .start s = .next (withFreshRegisters s true)) ∧
  (∀ s : State, (∃ a, a < 56 ∧ s.blk.read a = none) → exec .start s = .refused .startBeforeBlkLoaded)

/-- 10_state.md R23, 70_reset_and_hazards.md R111: nothing of an earlier scan survives START; BLK alone decides what follows. -/
def Obligations.StartForgetsEarlierScans : Prop :=
  ∀ s s' : State, s.blk = s'.blk → s.inputs = s'.inputs → s.evtLog = s'.evtLog → exec .start s = exec .start s'

/-- RESET and START leave BLK, the host's coming moves and the events already shown. -/
def Obligations.CommandsLeaveBlkAlone : Prop :=
  ∀ (i : Instr) (s t : State), i = .reset ∨ i = .start → exec i s = .next t →
    (∀ a, t.blk.read a = s.blk.read a) ∧ t.inputs = s.inputs ∧ t.evtLog = s.evtLog

/-! ## What a step runs -/

/-- 40_scan_control.md R62: with RUN = 1 and no command, the step is the decoded sub-record that IDX selects. -/
def Obligations.StepRunsTheSelectedSubRecord : Prop :=
  ∀ (s : State) (t0 t1 v : Sample), hostSilent s → s.run = true → s.idx.toNat ≤ 6 →
    s.blk.read (8 * s.idx.toNat + 4) = some t0 → s.blk.read (8 * s.idx.toNat + 5) = some t1 →
    s.blk.read (8 * s.idx.toNat + 7) = some v →
    step s = exec (decodeFields t0 t1 v) { s with inputs := s.inputs.tail }

/-- 60_exceptions.md R96 (a): RESET wins over START and ScanStep, START over ScanStep. -/
def Obligations.ResetBeatsStartBeatsScanStep : Prop :=
  (∀ (s : State) (start : Bool) (rest : List HostMove), s.inputs = .pins true start :: rest →
    step s = exec .reset { s with inputs := rest }) ∧
  (∀ (s : State) (rest : List HostMove), s.inputs = .pins false true :: rest →
    step s = exec .start { s with inputs := rest })

/-- 40_scan_control.md R65: with RUN = 0 only RESET or START changes a register, and a step without a host move changes nothing. -/
def Obligations.IdleBlockHoldsItsRegisters : Prop :=
  (∀ s t : State, s.run = false → (∀ rst start, nextMove s = .pins rst start → rst = false ∧ start = false) →
    step s = .next t → SameRegisters s t) ∧
  (∀ s : State, s.run = false → s.inputs = [] → ∀ n, runSteps n s = .next s)

/-! ## The five sub-record operations -/

/-- 41_subrecord_ops.md R75: the Mismatch action, for every sub-record in every state that wants another class; the event it raises is
the entry appended to evtLog (log 8). -/
def Obligations.MismatchActionWrites : Prop :=
  ∀ (i : Instr) (c : SubClass) (t : Tag) (s : State), i.subClass = some c → i.tag cfg = some t →
    s.st ≠ .seekStart → c ≠ wantedClass s.st → exec i s = .next (withTail s (withMismatch s t))

/-- 41_subrecord_ops.md R76: the Skip action writes nothing but the common tail. -/
def Obligations.SkipActionWritesOnlyTheTail : Prop :=
  ∀ (i : Instr) (c : SubClass) (s : State), i.subClass = some c → s.st = .seekStart → c ≠ .bnd →
    exec i s = .next (withTail s s)

/-- 41_subrecord_ops.md R70: the operation in the four states, and the encoding. -/
def Obligations.BndOperation : Prop :=
  (∀ s : State,
    (s.st = .seekStart →
      exec .bnd s = .next (withTail s { s with x := 0x0000, y := 0x0000, z := 0x0000, st := .wantX })) ∧
    (s.st ≠ .seekStart → exec .bnd s = .next (withTail s (withMismatch s (0x0000, 0x0000))))) ∧
  (∀ w : BitVec 128, decode (.sr w) = .ok .bnd ↔ wordSample w 4 = 0x0000 ∧ wordSample w 5 = 0x0000)

/-- 41_subrecord_ops.md R71: the operation in the four states, and the encoding. -/
def Obligations.XaxOperation : Prop :=
  (∀ (s : State) (v : Sample),
    (s.st = .seekStart → exec (.xax v) s = .next (withTail s s)) ∧
    (s.st = .wantX → exec (.xax v) s = .next (withTail s { s with x := v, st := .wantY })) ∧
    (s.st = .wantY ∨ s.st = .wantZ → exec (.xax v) s = .next (withTail s (withMismatch s (0x0002, 0x0000))))) ∧
  (∀ (w : BitVec 128) (v : Sample),
    decode (.sr w) = .ok (.xax v) ↔ wordSample w 4 = 0x0002 ∧ wordSample w 5 = 0x0000 ∧ wordSample w 7 = v)

/-- 41_subrecord_ops.md R72: the operation in the four states, and the encoding. -/
def Obligations.YaxOperation : Prop :=
  (∀ (s : State) (v : Sample),
    (s.st = .seekStart → exec (.yax v) s = .next (withTail s s)) ∧
    (s.st = .wantY → exec (.yax v) s = .next (withTail s { s with y := v, st := .wantZ })) ∧
    (s.st = .wantX ∨ s.st = .wantZ → exec (.yax v) s = .next (withTail s (withMismatch s (0x0002, 0x0001))))) ∧
  (∀ (w : BitVec 128) (v : Sample),
    decode (.sr w) = .ok (.yax v) ↔ wordSample w 4 = 0x0002 ∧ wordSample w 5 = 0x0001 ∧ wordSample w 7 = v)

/-- 41_subrecord_ops.md R73: the operation in the four states, and the encoding. The completing arm ends the scan whatever the
classification, which the values of X and Y before the step give; an unrecognised one is the event UnrecognizedOrientation (`cause` 3). -/
def Obligations.ZaxOperation : Prop :=
  (∀ (s : State) (v : Sample),
    (s.st = .seekStart → exec (.zax v) s = .next (withTail s s)) ∧
    (s.st = .wantZ → exec (.zax v) s = .next (withCompletion s v)) ∧
    (s.st = .wantZ → classify cfg s.x s.y = .indeterminate → (outputs (withCompletion s v)).cause = 3) ∧
    (s.st = .wantX ∨ s.st = .wantY → exec (.zax v) s = .next (withTail s (withMismatch s (0x0002, 0x0002))))) ∧
  (∀ (w : BitVec 128) (v : Sample),
    decode (.sr w) = .ok (.zax v) ↔ wordSample w 4 = 0x0002 ∧ wordSample w 5 = 0x0002 ∧ wordSample w 7 = v)

/-- 41_subrecord_ops.md R74: the operation in the four states, and the encoding; the value sample is ignored. -/
def Obligations.OthOperation : Prop :=
  (∀ (s : State) (t0 t1 v : Sample),
    (s.st = .seekStart → exec (.oth t0 t1 v) s = .next (withTail s s)) ∧
    (s.st ≠ .seekStart → exec (.oth t0 t1 v) s = .next (withTail s (withMismatch s (t0, t1))))) ∧
  (∀ (w : BitVec 128) (t0 t1 v : Sample),
    decode (.sr w) = .ok (.oth t0 t1 v) ↔ wordSample w 4 = t0 ∧ wordSample w 5 = t1 ∧ wordSample w 7 = v ∧
      (t0, t1) ∉ ([(0x0000, 0x0000), (0x0002, 0x0000), (0x0002, 0x0001), (0x0002, 0x0002)] : List Tag))

/-- What the five sub-record operations leave unchanged: BLK and the host's moves always; each register unless the rule of the
operation names it (R70 to R75), RUN, DONE and RESULT but for completion and EndOfScan. -/
def Obligations.SubRecordFrame : Prop :=
  ∀ (i : Instr) (c : SubClass) (s t : State), i.subClass = some c → exec i s = .next t →
    (∀ a, t.blk.read a = s.blk.read a) ∧ t.inputs = s.inputs ∧
    (¬(c = .bnd ∧ s.st = .seekStart) → ¬(c = .xax ∧ s.st = .wantX) → t.x = s.x) ∧
    (¬(c = .bnd ∧ s.st = .seekStart) → ¬(c = .yax ∧ s.st = .wantY) → t.y = s.y) ∧
    (¬(c = .bnd ∧ s.st = .seekStart) → ¬(c = .zax ∧ s.st = .wantZ) → t.z = s.z) ∧
    (¬(c = .zax ∧ s.st = .wantZ) → t.pkt = s.pkt) ∧
    (¬(c = .zax ∧ s.st = .wantZ) → s.idx ≠ 6 → t.run = s.run ∧ t.done = s.done ∧ t.result = s.result) ∧
    (¬mismatches s i → t.mis = s.mis ∧ t.evtLog = s.evtLog)

/-- 41_subrecord_ops.md section 3, laws 1 and 2: ST rises by one on a match, stays on a skip and on completion, drops to SeekStart
on a mismatch. -/
def Obligations.StRisesByOneStaysOrDrops : Prop :=
  ∀ (i : Instr) (c : SubClass) (s t : State), i.subClass = some c → exec i s = .next t →
    (c = wantedClass s.st → s.st ≠ .wantZ → t.st.code.toNat = s.st.code.toNat + 1) ∧
    (c = wantedClass s.st → s.st = .wantZ → t.st = .wantZ) ∧
    (c ≠ wantedClass s.st → t.st = .seekStart)

/-- 40_scan_control.md R63: at the seventh sub-record, a step that completes no packet ends the scan with Indeterminate; ST, X, Y, Z and
MIS are what the class operation writes at any other index. -/
def Obligations.EndOfScanGivesIndeterminate : Prop :=
  ∀ (i : Instr) (c : SubClass) (s : State), i.subClass = some c → s.idx = 6 → ¬completes s i →
    ∃ t u, exec i s = .next t ∧ exec i { s with idx := 2 } = .next u ∧
      t.result = .indeterminate ∧ t.done = true ∧ t.run = false ∧ t.idx = 7 ∧ t.pkt = s.pkt ∧
      t.st = u.st ∧ t.x = u.x ∧ t.y = u.y ∧ t.z = u.z ∧ t.mis = u.mis ∧
      (s.pkt = false → (outputs t).cause = 2)

/-- 40_scan_control.md R64: completion at any index writes these registers; afterwards no step is enabled, whatever BLK holds; in a legal
state it happens at index 3 to 6. -/
def Obligations.CompletionEndsTheScanForGood : Prop :=
  ∀ (s : State) (v : Sample), s.st = .wantZ →
    ∃ t, exec (.zax v) s = .next t ∧ t.z = v ∧ t.pkt = true ∧ t.result = classify cfg s.x s.y ∧ t.done = true ∧
      t.run = false ∧ t.idx = s.idx + 1 ∧
      (∀ (m : Memory) (n : Nat), runSteps n { t with blk := m, inputs := [] } = .next { t with blk := m, inputs := [] }) ∧
      (s.Inv → s.run = true → 3 ≤ s.idx.toNat ∧ s.idx.toNat ≤ 6)

/-! ## The tag matcher and the classifier -/

/-- 42_classify.md R81: the five classes. -/
def Obligations.TagMatcherTests : Prop :=
  ∀ t0 t1 : Sample,
    (classOf cfg (t0, t1) = .bnd ↔ t0 = 0x0000 ∧ t1 = 0x0000) ∧
    (classOf cfg (t0, t1) = .xax ↔ t0 = 0x0002 ∧ t1 = 0x0000) ∧
    (classOf cfg (t0, t1) = .yax ↔ t0 = 0x0002 ∧ t1 = 0x0001) ∧
    (classOf cfg (t0, t1) = .zax ↔ t0 = 0x0002 ∧ t1 = 0x0002) ∧
    (classOf cfg (t0, t1) = .oth ↔
      ¬(t0 = 0x0000 ∧ t1 = 0x0000) ∧ ¬(t0 = 0x0002 ∧ t1 = 0x0000) ∧ ¬(t0 = 0x0002 ∧ t1 = 0x0001) ∧
        ¬(t0 = 0x0002 ∧ t1 = 0x0002))

/-- 42_classify.md R82 for any four pairwise different constant tags: each named class is one tag, so the order of the tests does not matter. -/
def Obligations.TestOrderDoesNotMatter : Prop :=
  ∀ (c : Config) (t : Tag), List.Pairwise (· ≠ ·) [c.tagBnd, c.tagX, c.tagY, c.tagZ] →
    (classOf c t = .bnd ↔ t = c.tagBnd) ∧ (classOf c t = .xax ↔ t = c.tagX) ∧ (classOf c t = .yax ↔ t = c.tagY) ∧
    (classOf c t = .zax ↔ t = c.tagZ)

/-- 42_classify.md R83: the three-rule table; exactly four pairs give a determinate orientation; and only the completing ZAX delivers one. -/
def Obligations.ClassifierTable : Prop :=
  (∀ x y : Sample,
    (classify cfg x y = .normal ↔ y = 0xFFFF ∧ (x = 0xFFFF ∨ x = 0x0000)) ∧
    (classify cfg x y = .left ↔ x = 0x0000 ∧ y = 0x0000) ∧
    (classify cfg x y = .right ↔ x = 0xFFFF ∧ y = 0x0000) ∧
    (classify cfg x y = .indeterminate ↔ (x, y) ∉
      [((0xFFFF, 0xFFFF) : Sample × Sample), (0x0000, 0xFFFF), (0x0000, 0x0000), (0xFFFF, 0x0000)])) ∧
  (∀ s t : State, step s = .next t → t.result ≠ .indeterminate → t.result ≠ s.result →
    ∃ v, fetch s = .instr (.zax v) ∧ s.st = .wantZ ∧ t.result = classify cfg s.x s.y)

/-- 42_classify.md R84: no constants and no input make the classifier, and no step the block, produce Inverted. -/
def Obligations.InvertedIsNeverProduced : Prop :=
  (∀ (c : Config) (x y : Sample), classify c x y ≠ .inverted) ∧
  (∀ s t : State, step s = .next t → t.result = .inverted → s.result = .inverted)

/-- 42_classify.md R86: Z is no input of the classifier. The value of the completing ZAX changes register Z alone, in the operation and in the
scans of two blocks that differ only in the value sample of the completing sub-record `i`. -/
def Obligations.CompletingValueReachesOnlyZ : Prop :=
  (∀ (s : State) (v v' : Sample), s.st = .wantZ →
    ∃ t, exec (.zax v) s = .next t ∧ exec (.zax v') s = .next { t with z := v' }) ∧
  (∀ (b b' : RawBlock) (s u : State) (i : Nat), s.run = false →
    (∀ a, a < 56 → a ≠ 8 * i + 7 → b'.at a = b.at a) →
    afterScanSteps b s i = .next u → u.run = true → u.idx.toNat = i → u.st = .wantZ → blockClass b i = .zax →
    ∃ t t', afterScanSteps b s (i + 1) = .next t ∧ afterScanSteps b' s (i + 1) = .next t' ∧ t.done = true ∧
      SameRegisters { t with z := t'.z } t' ∧ t.z = b.at (8 * i + 7) ∧ t'.z = b'.at (8 * i + 7))

/-- 10_state.md R12: Z is read by nothing; X and Y only by the classifier of the completing step. The outputs show all three. -/
def Obligations.XYReadOnlyByTheClassifier : Prop :=
  (∀ (s t : State) (z' : Sample), step s = .next t → ∃ w, step { s with z := z' } = .next { t with z := w }) ∧
  (∀ (s t : State) (x' y' : Sample), step s = .next t → (∀ i, scans s i → ¬completes s i) →
    ∃ w w', step { s with x := x', y := y' } = .next { t with x := w, y := w' }) ∧
  (∀ s : State, (outputs s).xOut = s.x ∧ (outputs s).yOut = s.y ∧ (outputs s).zOut = s.z)

/-! ## Whole-machine rules over every step -/

/-- 10_state.md R11: the only writers of X, Y and Z, and what they write. -/
def Obligations.OnlyNamedStepsWriteXYZ : Prop :=
  ∀ s t : State, step s = .next t →
    (fetch s = .instr .reset ∨ fetch s = .instr .start → t.x = 0x0000 ∧ t.y = 0x0000 ∧ t.z = 0x0000) ∧
    (fetch s = .instr .bnd → s.st = .seekStart → t.x = 0x0000 ∧ t.y = 0x0000 ∧ t.z = 0x0000) ∧
    (∀ v, fetch s = .instr (.xax v) → s.st = .wantX → t.x = v) ∧
    (∀ v, fetch s = .instr (.yax v) → s.st = .wantY → t.y = v) ∧
    (∀ v, fetch s = .instr (.zax v) → s.st = .wantZ → t.z = v) ∧
    (t.x ≠ s.x → fetch s = .instr .reset ∨ fetch s = .instr .start ∨ (fetch s = .instr .bnd ∧ s.st = .seekStart) ∨
      ∃ v, fetch s = .instr (.xax v) ∧ s.st = .wantX) ∧
    (t.y ≠ s.y → fetch s = .instr .reset ∨ fetch s = .instr .start ∨ (fetch s = .instr .bnd ∧ s.st = .seekStart) ∨
      ∃ v, fetch s = .instr (.yax v) ∧ s.st = .wantY) ∧
    (t.z ≠ s.z → fetch s = .instr .reset ∨ fetch s = .instr .start ∨ (fetch s = .instr .bnd ∧ s.st = .seekStart) ∨
      ∃ v, fetch s = .instr (.zax v) ∧ s.st = .wantZ)

/-- 10_state.md R14: IDX goes to 0 by a command, up by exactly one by a ScanStep, without a wrap, and stays otherwise. -/
def Obligations.IdxClearsOrAdvancesByOne : Prop :=
  ∀ s t : State, step s = .next t →
    (fetch s = .instr .reset ∨ fetch s = .instr .start → t.idx = 0) ∧
    (∀ i, scans s i → t.idx.toNat = s.idx.toNat + 1) ∧
    ((∀ i, fetch s ≠ .instr i) → t.idx = s.idx)

/-- 10_state.md R15, R16, R17: what sets and clears RUN, DONE and PKT. -/
def Obligations.RunDonePktFollowTheirRules : Prop :=
  ∀ s t : State, step s = .next t →
    (fetch s = .instr .start → t.run = true ∧ t.done = false ∧ t.pkt = false) ∧
    (fetch s = .instr .reset → t.run = false ∧ t.done = false ∧ t.pkt = false) ∧
    (∀ i, scans s i →
      (t.run = true ↔ ¬completes s i ∧ s.idx ≠ 6) ∧ (t.done = true ↔ s.done = true ∨ completes s i ∨ s.idx = 6) ∧
      (t.pkt = true ↔ s.pkt = true ∨ completes s i)) ∧
    ((∀ i, fetch s ≠ .instr i) → t.run = s.run ∧ t.done = s.done ∧ t.pkt = s.pkt)

/-- 10_state.md R20, 60_exceptions.md R91: MIS and one event of `mismatch_evt` exactly on a DecodeMismatch; MIS is cleared by the commands
only, and it influences nothing else. -/
def Obligations.MisRecordsMismatchesAndNothingReadsIt : Prop :=
  (∀ s t : State, step s = .next t →
    (fetch s = .instr .reset ∨ fetch s = .instr .start → t.mis = false ∧ emitted s t = []) ∧
    (∀ i g, scans s i → mismatches s i → i.tag cfg = some g → t.mis = true ∧ emitted s t = [⟨s.idx, s.st, g⟩]) ∧
    ((∀ i, scans s i → ¬mismatches s i) → (∀ i, fetch s = .instr i → i ≠ .reset ∧ i ≠ .start) →
      t.mis = s.mis ∧ emitted s t = [])) ∧
  (∀ (s t : State) (b : Bool), step s = .next t → ∃ b', step { s with mis := b } = .next { t with mis := b' })

/-- 20_memory.md R36: the block writes nothing to BLK; only a host write changes it. -/
def Obligations.OnlyTheHostWritesBlk : Prop :=
  ∀ s t : State, step s = .next t → (∀ a v, nextMove s ≠ .load a v) → t.blk = s.blk ∧ ∀ a, t.blk.read a = s.blk.read a

/-- 20_memory.md R32, R35: a ScanStep depends on no sample but the three it reads. -/
def Obligations.ScanStepReadsThreeSamples : Prop :=
  ∀ (s t : State) (m : Memory), hostSilent s → s.run = true →
    (∀ k, k = 4 ∨ k = 5 ∨ k = 7 → m.read (8 * s.idx.toNat + k) = s.blk.read (8 * s.idx.toNat + k)) →
    step s = .next t → step { s with blk := m } = .next { t with blk := m }

/-- 70_reset_and_hazards.md R113, 20_memory.md R39; log 6, log 7: a host write with RUN = 0 stores one sample and nothing else; with RUN = 1 it
is refused; an address outside BLK faults (the model's choice, log 7). -/
def Obligations.HostWriteStoresOneSample : Prop :=
  ∀ (s : State) (a : Nat) (v : Sample), nextMove s = .load a v →
    (s.run = false → a ≤ 55 → ∃ t, step s = .next t ∧ t = { s with blk := t.blk, inputs := s.inputs.tail } ∧
      ∀ a', t.blk.read a' = if a' = a then some v else s.blk.read a') ∧
    (s.run = true → step s = .refused .blkWrittenDuringScan) ∧
    (s.run = false → 55 < a → step s = .fault (.hostWriteOutsideBlk a))

/-- 70_reset_and_hazards.md R113: the 56 writes may come in any order; BLK then holds the block, as one and the same list. -/
def Obligations.LoadingOrderDoesNotMatter : Prop :=
  ∀ (s : State) (b : RawBlock) (moves : List HostMove), s.run = false → s.blk.wf = true → moves.Perm (hostLoads b) →
    runSteps 56 { s with inputs := moves } = .next { s with inputs := [], blk := Memory.ofBlock b }

/-! ## Encodings -/

/-- Decoding the encoding of every well-formed instruction gives it back (30_encoding.md R46, R50, R54; spec/opcode_table.json). For RESET and
START the code is a word of the two command pins, the model's choice (log 15). -/
def Obligations.DecodeInvertsEncode : Prop :=
  ∀ i : Instr, i.wf cfg = true → decode (encode i) = .ok i

/-- The other direction: encoding what a word decodes to gives back every bit the block uses, the tag pair always and the value
sample of an axis or OTH sub-record, with 0x0000 elsewhere (30_encoding.md R45, R49, R54). -/
def Obligations.EncodeKeepsTheUsedFields : Prop :=
  ∀ w : BitVec 128, ∃ w', encode (decodeSubRecord w) = .sr w' ∧
    unpackWord w' = { s0 := 0, s1 := 0, s2 := 0, s3 := 0, s6 := 0, t0 := (unpackWord w).t0, t1 := (unpackWord w).t1,
                      v := if decodeSubRecord w = .bnd then 0 else (unpackWord w).v }

/-- 30_encoding.md R50: the decoder gives the class of the first row of the table that matches, and the four named rows exclude each other. -/
def Obligations.DecoderFollowsTheTable : Prop :=
  (∀ w : BitVec 128, firstRow subRecordTable w = (decodeSubRecord w).subClass) ∧
  (∀ (w : BitVec 128) (r r' : TableRow), r ∈ subRecordTable.take 4 → r' ∈ subRecordTable.take 4 →
    r.fits w = true → r'.fits w = true → r = r')

/-- 30_encoding.md R52: every sub-record word is legal and decodes to a well-formed sub-record instruction. -/
def Obligations.EverySubRecordWordIsLegal : Prop :=
  ∀ w : BitVec 128, ∃ i c, decode (.sr w) = .ok i ∧ i.wf cfg = true ∧ i.subClass = some c ∧
    i.tag cfg = some ((unpackWord w).t0, (unpackWord w).t1)

/-- Sub-record words of 95_test_vectors.md part 6 (P1, P2, P5), written out there. The three pin-word clauses are the model's reading
(DESIGN CHOICE, log 15): RESET and START have no encoding in BLK (40_scan_control.md R60, R61), and a pin word is the pair of input pins
rst, start of 10_state.md R21, as the table's two CMD rows number them, with the priority of 60_exceptions.md R96. -/
def Obligations.SpecWordsDecodeAsPrinted : Prop :=
  decode (.sr 0x00000000000000000000000000000000) = .ok .bnd ∧
  decode (.sr 0xFFFF0000000000020000000000000000) = .ok (.xax 0xFFFF) ∧
  decode (.sr 0x567800C80001000200079F1000014A3B) = .ok (.yax 0x5678) ∧
  decode (.sr 0x12340000000200020000000000000000) = .ok (.zax 0x1234) ∧
  decode (.sr 0x00000000000000010000000000000000) = .ok (.oth 0x0001 0x0000 0x0000) ∧
  decode (.cmd 0b10) = .ok .reset ∧ decode (.cmd 0b11) = .ok .reset ∧ decode (.cmd 0b01) = .ok .start

/-! ## The legal states -/

/-- The state after RESET is legal, whatever the host will do. -/
def Obligations.ResetStateIsLegal : Prop :=
  ∀ moves : List HostMove, State.Inv { State.reset with inputs := moves }

/-- Every step from a legal state leads to a legal state: the clauses of 10_state.md R25, the canonical form of BLK, and a loaded BLK during a scan. -/
def Obligations.StepKeepsLegalStates : Prop :=
  ∀ s t : State, s.Inv → step s = .next t → t.Inv

/-- 10_state.md R25: its clauses (a) to (h) in every state reachable from RESET. -/
def Obligations.ReachableStatesKeepTheScanInvariants : Prop :=
  ∀ s : State, Reachable s → s.ScanInv

/-- Every step keeps BLK canonical, from every state. -/
def Obligations.StepKeepsBlkCanonical : Prop :=
  ∀ s t : State, s.blk.wf = true → step s = .next t → t.blk.wf = true

/-- From a legal state the block never faults (00_scope.md section 6); with a host that keeps R113 and R114, the one refusal is a START
before BLK is loaded (20_memory.md R30). -/
def Obligations.BlockNeverFaults : Prop :=
  ∀ s : State, s.Inv → s.hostObeys →
    (∃ t, step s = .next t) ∨
    (step s = .refused .startBeforeBlkLoaded ∧ nextMove s = .pins false true ∧ ∃ a, a < 56 ∧ s.blk.read a = none)

/-- After a completed packet RESULT is the classification of X and Y, Indeterminate included, and it stays so (10_state.md R18, R19; 60_exceptions.md R93). -/
def Obligations.ResultIsTheClassificationOfXY : Prop :=
  ∀ s t : State, s.Inv → (s.pkt = true → s.result = classify cfg s.x s.y) → step s = .next t →
    (t.pkt = true → t.result = classify cfg t.x t.y)

/-- 20_memory.md R41: the addresses a scan forms. -/
def Obligations.ScanAddressesLieInBlk : Prop :=
  ∀ s : State, Reachable s → s.run = true →
    ∃ i, i ≤ 6 ∧ i = s.idx.toNat ∧ readAddrs i = [8 * i + 4, 8 * i + 5, 8 * i + 7] ∧
      ∀ a ∈ readAddrs i, 4 ≤ a ∧ a ≤ 55 ∧ (∃ v, s.blk.read a = some v) ∧ (BitVec.ofNat 6 a).toNat = a

/-- 10_state.md R19: the three clauses of `cause`, in the legal states. -/
def Obligations.CauseOutputClauses : Prop :=
  ∀ s : State, s.Inv →
    (s.done = false ∨ s.result ≠ .indeterminate → (outputs s).cause = 0) ∧
    (s.done = true → s.pkt = false → (outputs s).cause = 2) ∧
    (s.done = true → s.pkt = true → s.result = .indeterminate → (outputs s).cause = 3)

/-- The numeric codes of ST and RESULT on the outputs (10_state.md R13, R18, R21). -/
def Obligations.OutputCodes : Prop :=
  ∀ s : State,
    ((outputs s).stOut = 0 ↔ s.st = .seekStart) ∧ ((outputs s).stOut = 1 ↔ s.st = .wantX) ∧
    ((outputs s).stOut = 2 ↔ s.st = .wantY) ∧ ((outputs s).stOut = 3 ↔ s.st = .wantZ) ∧
    ((outputs s).result = 0 ↔ s.result = .normal) ∧ ((outputs s).result = 1 ↔ s.result = .left) ∧
    ((outputs s).result = 2 ↔ s.result = .right) ∧ ((outputs s).result = 3 ↔ s.result = .inverted) ∧
    ((outputs s).result = 4 ↔ s.result = .indeterminate)

/-! ## Whole scans -/

/-- 40_scan_control.md R66: the host's load and START from any state with RUN = 0, and no move after: DONE after 4 to 7 ScanSteps and not
before, with the reference function's result and locals. -/
def Obligations.ScanComputesDecode : Prop :=
  ∀ (b : RawBlock) (s : State), s.run = false →
    ∃ n t, 4 ≤ n ∧ n ≤ 7 ∧ afterScanSteps b s n = .next t ∧ t.done = true ∧ t.result = decodeBlock b ∧
      t.pkt = (decodeRun b).fromWantZ ∧ t.x = (decodeRun b).x ∧ t.y = (decodeRun b).y ∧ t.z = (decodeRun b).z ∧
      t.st = (decodeRun b).st ∧
      ∀ m, m < n → ∃ u, afterScanSteps b s m = .next u ∧ u.done = false

/-- 40_scan_control.md R67: a scan of `n` steps ends with IDX = `n`, 4 to 7; it completes a packet exactly as four consecutive sub-records from
`j` in 0 to 3, and takes 7 steps otherwise. -/
def Obligations.ScanLengthIsFourToSeven : Prop :=
  ∀ (b : RawBlock) (s : State), s.run = false →
    ∃ n t, 4 ≤ n ∧ n ≤ 7 ∧ afterScanSteps b s n = .next t ∧ t.done = true ∧ t.idx.toNat = n ∧
      (∀ m, m < n → ∃ u, afterScanSteps b s m = .next u ∧ u.done = false ∧ u.pkt = false) ∧
      (t.pkt = true → ∃ j, j ≤ 3 ∧ n = j + 4 ∧ blockClass b j = .bnd ∧ blockClass b (j + 1) = .xax ∧
        blockClass b (j + 2) = .yax ∧ blockClass b (j + 3) = .zax) ∧
      (t.pkt = false → n = 7)

/-- 41_subrecord_ops.md section 3, law 4; 60_exceptions.md R91, R96 (e): at most three DecodeMismatch events in a scan, in sub-record
order, each with the index, state and tag that mismatched; MIS tells whether there was one. -/
def Obligations.AtMostThreeMismatchesInAScan : Prop :=
  ∀ (b : RawBlock) (s : State), s.run = false →
    ∃ n t, n ≤ 7 ∧ afterScanSteps b s n = .next t ∧ t.done = true ∧
      s.evtLog ++ emitted s t = t.evtLog ∧ (emitted s t).length ≤ 3 ∧
      (emitted s t).Pairwise (fun e e' => e.idx.toNat < e'.idx.toNat) ∧
      (∀ e ∈ emitted s t, e.st ≠ .seekStart ∧ e.tag = (b.at (8 * e.idx.toNat + 4), b.at (8 * e.idx.toNat + 5)) ∧
        classOf cfg e.tag ≠ wantedClass e.st) ∧
      (t.mis = true ↔ emitted s t ≠ [])

/-- 30_encoding.md R49: two blocks with the same tags, and the same value samples wherever the scan of the first captures one, give
the same trace of every register. -/
def Obligations.UnusedSamplesAreDontCare : Prop :=
  ∀ (b b' : RawBlock) (s : State), s.run = false →
    (∀ i, i < 7 → b.at (8 * i + 4) = b'.at (8 * i + 4) ∧ b.at (8 * i + 5) = b'.at (8 * i + 5)) →
    (∀ i, i < 7 → captured b s i → b.at (8 * i + 7) = b'.at (8 * i + 7)) →
    ∀ n t, afterScanSteps b s n = .next t → ∃ t', afterScanSteps b' s n = .next t' ∧ SameRegisters t t'

/-- 41_subrecord_ops.md section 3, law 5: a block without a boundary gives Indeterminate and leaves the registers of a fresh scan. -/
def Obligations.NoBoundaryGivesIndeterminate : Prop :=
  ∀ (b : RawBlock) (s : State), s.run = false → (∀ i, i < 7 → blockClass b i ≠ .bnd) →
    ∃ t, afterScanSteps b s 7 = .next t ∧ t.done = true ∧ t.result = .indeterminate ∧ t.mis = false ∧ t.pkt = false ∧
      t.st = .seekStart ∧ t.x = 0x0000 ∧ t.y = 0x0000 ∧ t.z = 0x0000 ∧ (outputs t).cause = 2

/-- 70_reset_and_hazards.md R119: from any legal state with a scan running, and a silent host, DONE comes after at most as many steps as
sub-records are left. -/
def Obligations.RunningScanEnds : Prop :=
  ∀ s : State, s.Inv → s.run = true → s.inputs = [] →
    ∃ n t, n + s.idx.toNat ≤ 7 ∧ runSteps n s = .next t ∧ t.done = true ∧ t.run = false

/-! ## The environment (00_scope.md R4: outside the block; log 13) -/

/-- 60_exceptions.md R102, R103, R104: one decoded orientation in the monitor. -/
def Obligations.MonitorJudgesOneOrientation : Prop :=
  ∀ (m : Monitor) (o : Orientation),
    (o = .indeterminate → m.judge o = m) ∧
    (o ≠ .indeterminate → m.lastApplied ≠ some o →
      m.judge o = { m with lastDecoded := some o, lastApplied := some o, trace := m.trace ++ [.apply o] }) ∧
    (o ≠ .indeterminate → m.lastApplied = some o → m.judge o = { m with lastDecoded := some o })

/-- The debounce over any sequence of decoded orientations: apply is invoked with the determinate ones, immediate repeats
left out (60_exceptions.md R102 to R104; 95_test_vectors.md E7, H1 to H3, H5). -/
def Obligations.MonitorAppliesOnlyChanges : Prop :=
  ∀ os : List Orientation,
    (os.foldl (fun m o => Monitor.judge o m) Monitor.initial).applied =
      (os.filter (fun o => decide (o ≠ .indeterminate))).destutter (· ≠ ·)

/-- 60_exceptions.md R94, R105: a short read ends the process with no apply and no START, and nothing follows. -/
def Obligations.ShortReadEndsTheHost : Prop :=
  ∀ (l : List Sample) (m : Monitor) (s : State), l.length < 56 → m.terminated = false →
    ∃ m', Monitor.poll (some l) m s = .next (m', s) ∧ m'.terminated = true ∧ m'.applied = m.applied ∧
      ∀ reads, Monitor.pollAll reads m' s = .next (m', s)

/-- 60_exceptions.md R101: one iteration on a full read waits one time unit, reads, decodes by the block, and judges. -/
def Obligations.MonitorIterationDecodesTheBlock : Prop :=
  ∀ (b : RawBlock) (m : Monitor) (s : State), m.terminated = false → s.run = false →
    ∃ t, Monitor.poll (some b.toList) m s =
      .next (({ m with trace := m.trace ++ [.wait 1, .readSource] } : Monitor).judge (decodeBlock b), t) ∧ t.done = true

/-- 20_memory.md R33, its closing note: read in the other byte order, every axis tag is OTH, while 0x0000 and 0xFFFF read the same. -/
def Obligations.WrongByteOrderLosesEveryAxisTag : Prop :=
  (∀ a b c d : BitVec 8, ∀ k : SubClass, k = .xax ∨ k = .yax ∨ k = .zax → ∀ o o' : ByteOrder, o ≠ o' →
    classOf cfg (sampleOfBytes o a b, sampleOfBytes o c d) = k →
    classOf cfg (sampleOfBytes o' a b, sampleOfBytes o' c d) = .oth) ∧
  (∀ a b : BitVec 8, ∀ o o' : ByteOrder, ∀ k : Sample, k = 0x0000 ∨ k = 0xFFFF →
    (sampleOfBytes o a b = k ↔ sampleOfBytes o' a b = k))
end

