-- ==== Sys2Proof/Laws/Decode.lean ====
section
/-! SUPPORT. The tag matcher's cases and the fields of packed words. -/

namespace Sys2Proof

/-- The type `Sample` has the width SAMPLE_W. -/
theorem sample_width : Sample = BitVec cfg.sampleW := rfl

@[simp] theorem cfg_subrecLen : cfg.subrecLen = 8 := rfl
@[simp] theorem cfg_nsub : cfg.nsub = 7 := rfl
@[simp] theorem cfg_blockLen : cfg.blockLen = 56 := rfl
@[simp] theorem cfg_tag0Off : cfg.tag0Off = 4 := rfl
@[simp] theorem cfg_tag1Off : cfg.tag1Off = 5 := rfl
@[simp] theorem cfg_valOff : cfg.valOff = 7 := rfl
@[simp] theorem cfg_tagBnd : cfg.tagBnd = (0x0000, 0x0000) := rfl
@[simp] theorem cfg_tagX : cfg.tagX = (0x0002, 0x0000) := rfl
@[simp] theorem cfg_tagY : cfg.tagY = (0x0002, 0x0001) := rfl
@[simp] theorem cfg_tagZ : cfg.tagZ = (0x0002, 0x0002) := rfl
@[simp] theorem cfg_kLo : cfg.kLo = 0x0000 := rfl
@[simp] theorem cfg_kHi : cfg.kHi = 0xFFFF := rfl

/-! ## The tag matcher -/

/-- The tag matcher with the constants of R6 written out (42_classify.md R81). -/
theorem classOf_cfg (t : Tag) :
    classOf cfg t =
      if t = (0x0000, 0x0000) then .bnd
      else if t = (0x0002, 0x0000) then .xax
      else if t = (0x0002, 0x0001) then .yax
      else if t = (0x0002, 0x0002) then .zax
      else .oth := rfl

theorem classOf_tagBnd : classOf cfg cfg.tagBnd = .bnd := by decide
theorem classOf_tagX : classOf cfg cfg.tagX = .xax := by decide
theorem classOf_tagY : classOf cfg cfg.tagY = .yax := by decide
theorem classOf_tagZ : classOf cfg cfg.tagZ = .zax := by decide

/-- A tag that is none of the four is OTH. -/
theorem classOf_other {t : Tag} (h : t ∉ [cfg.tagBnd, cfg.tagX, cfg.tagY, cfg.tagZ]) : classOf cfg t = .oth := by
  simp only [List.mem_cons, List.not_mem_nil, or_false, not_or] at h
  simp only [classOf, h, if_false]

/-- What `decodeFields` gives for each class. -/
theorem decodeFields_eq (t0 t1 v : Sample) :
    decodeFields t0 t1 v = match classOf cfg (t0, t1) with
      | .bnd => .bnd
      | .xax => .xax v
      | .yax => .yax v
      | .zax => .zax v
      | .oth => .oth t0 t1 v := rfl

/-- A decoded sub-record is a sub-record instruction, of the class the tag matcher gives. -/
theorem decodeFields_subClass (t0 t1 v : Sample) :
    (decodeFields t0 t1 v).subClass = some (classOf cfg (t0, t1)) := by
  rw [decodeFields_eq]
  split <;> simp_all [Instr.subClass]

/-! ## Packed words -/

theorem unpackWord_packWord (r : SubRecord) : unpackWord (packWord r) = r := by
  obtain ⟨s0, s1, s2, s3, t0, t1, s6, v⟩ := r
  simp only [unpackWord, wordSample, packWord, SubRecord.mk.injEq]
  refine ⟨?_, ?_, ?_, ?_, ?_, ?_, ?_, ?_⟩ <;>
    (ext j hj
     rw [← BitVec.getLsbD_eq_getElem, ← BitVec.getLsbD_eq_getElem, BitVec.getLsbD_extractLsb']
     simp only [hj, decide_true, Bool.true_and, BitVec.getLsbD_append]
     split_ifs <;> first | omega | (congr 1; omega))

end Sys2Proof
end

