-- ==== Sys2Proof/Laws/Memory.lean ====
section
/-! SUPPORT. The laws of BLK: reading after writing, the canonical form, and which memories are loaded. -/

namespace Sys2Proof.Machine

/-! ## Reading after writing -/

@[simp] theorem Memory.read_nil (a : Nat) : Memory.read [] a = none := rfl

theorem Memory.read_cons (b : Nat) (v : Sample) (m : Memory) (a : Nat) :
    Memory.read ((b, v) :: m) a = if a = b then some v else Memory.read m a := rfl

/-- One sample after a write, in every memory and at every address. -/
theorem Memory.read_write (m : Memory) (a a' : Nat) (v : Sample) :
    (m.write a v).read a' = if a' = a then some v else m.read a' := by
  induction m with
  | nil => simp [Memory.write, Memory.read]
  | cons p m ih =>
    obtain ⟨b, w⟩ := p
    simp only [Memory.write]
    split
    · simp [Memory.read_cons]
    · split
      · subst_vars
        by_cases h : a' = b <;> simp [Memory.read_cons, h]
      · simp only [Memory.read_cons, ih]
        split <;> split <;> simp_all

@[simp] theorem Memory.read_write_same (m : Memory) (a : Nat) (v : Sample) :
    (m.write a v).read a = some v := by simp [Memory.read_write]

theorem Memory.read_write_other (m : Memory) {a a' : Nat} (v : Sample) (h : a' ≠ a) :
    (m.write a v).read a' = m.read a' := by simp [Memory.read_write, h]

/-! ## The canonical form -/

theorem Memory.risingFrom_cons (lo b : Nat) (v : Sample) (m : Memory) :
    Memory.risingFrom lo ((b, v) :: m) = true ↔
      lo ≤ b ∧ b < cfg.blockLen ∧ Memory.risingFrom (b + 1) m = true := by
  simp only [Memory.risingFrom, Bool.and_eq_true, decide_eq_true_eq, and_assoc]

theorem Memory.risingFrom_write (m : Memory) (lo a : Nat) (v : Sample) (h : Memory.risingFrom lo m = true)
    (hlo : lo ≤ a) (ha : a < cfg.blockLen) : Memory.risingFrom lo (m.write a v) = true := by
  induction m generalizing lo with
  | nil => exact (Memory.risingFrom_cons ..).2 ⟨hlo, ha, rfl⟩
  | cons p m ih =>
    obtain ⟨b, w⟩ := p
    obtain ⟨h1, h2, h3⟩ := (Memory.risingFrom_cons ..).1 h
    simp only [Memory.write]
    split
    · simp only [Memory.risingFrom_cons]
      exact ⟨hlo, ha, by omega, h2, h3⟩
    · split
      · subst_vars
        exact (Memory.risingFrom_cons ..).2 ⟨hlo, ha, h3⟩
      · exact (Memory.risingFrom_cons ..).2 ⟨h1, h2, ih (b + 1) h3 (by omega)⟩

/-- A write inside BLK keeps the canonical form. -/
theorem Memory.wf_write (m : Memory) (a : Nat) (v : Sample) (h : m.wf = true) (ha : a < cfg.blockLen) :
    (m.write a v).wf = true := Memory.risingFrom_write m 0 a v h (Nat.zero_le a) ha

theorem Memory.wf_nil : Memory.wf [] = true := rfl

/-- Nothing is listed below the bound of a rising memory. -/
theorem Memory.read_below (m : Memory) (lo a : Nat) (h : Memory.risingFrom lo m = true) (ha : a < lo) :
    m.read a = none := by
  induction m generalizing lo with
  | nil => rfl
  | cons p m ih =>
    obtain ⟨b, w⟩ := p
    obtain ⟨h1, -, h3⟩ := (Memory.risingFrom_cons ..).1 h
    rw [Memory.read_cons, if_neg (by omega), ih (b + 1) h3 (by omega)]

/-- Rising memories that read alike everywhere are the same list. -/
theorem Memory.ext_of_rising (m m' : Memory) (lo : Nat) (h : Memory.risingFrom lo m = true)
    (h' : Memory.risingFrom lo m' = true) (heq : ∀ a, m.read a = m'.read a) : m = m' := by
  induction m generalizing m' lo with
  | nil =>
    cases m' with
    | nil => rfl
    | cons p m' =>
      obtain ⟨b, w⟩ := p
      simpa [Memory.read_cons] using heq b
  | cons p m ih =>
    obtain ⟨b, w⟩ := p
    cases m' with
    | nil => simpa [Memory.read_cons] using heq b
    | cons p' m' =>
      obtain ⟨b', w'⟩ := p'
      obtain ⟨h1, h2, h3⟩ := (Memory.risingFrom_cons ..).1 h
      obtain ⟨h1', h2', h3'⟩ := (Memory.risingFrom_cons ..).1 h'
      have hb : b = b' := by
        rcases Nat.lt_trichotomy b b' with hlt | heq' | hgt
        · have e := heq b
          rw [Memory.read_cons, if_pos rfl, Memory.read_cons, if_neg (by omega),
            Memory.read_below m' (b' + 1) b h3' (by omega)] at e
          cases e
        · exact heq'
        · have e := heq b'
          rw [Memory.read_cons, if_neg (by omega), Memory.read_below m (b + 1) b' h3 (by omega),
            Memory.read_cons, if_pos rfl] at e
          cases e
      subst hb
      have hw : w = w' := by simpa [Memory.read_cons] using heq b
      subst hw
      congr 1
      refine ih m' (b + 1) h3 h3' fun a => ?_
      by_cases ha : a = b
      · rw [ha, Memory.read_below m (b + 1) b h3 (by omega), Memory.read_below m' (b + 1) b h3' (by omega)]
      · simpa [Memory.read_cons, ha] using heq a

/-- Canonical memories that read alike everywhere are the same list: equal memories are equal data. -/
theorem Memory.ext_of_wf (m m' : Memory) (h : m.wf = true) (h' : m'.wf = true)
    (heq : ∀ a, m.read a = m'.read a) : m = m' := Memory.ext_of_rising m m' 0 h h' heq

/-! ## Loaded memories -/

theorem Memory.loaded_iff (m : Memory) :
    m.loaded = true ↔ ∀ a, a < cfg.blockLen → ∃ v, m.read a = some v := by
  simp [Memory.loaded, Option.isSome_iff_exists]

/-- A write keeps a loaded memory loaded. -/
theorem Memory.loaded_write (m : Memory) (a : Nat) (v : Sample) (h : m.loaded = true) :
    (m.write a v).loaded = true := by
  rw [Memory.loaded_iff] at *
  intro a' ha'
  rw [Memory.read_write]
  split
  · exact ⟨v, rfl⟩
  · exact h a' ha'

end Sys2Proof.Machine
end

