-- ==== Sys2Proof/Laws/State.lean ====
section
/-! SUPPORT. What each named update leaves in each field of State. -/

namespace Sys2Proof.Machine

@[simp] theorem clearFlags_x (s : State) : (clearFlags s).x = s.x := rfl
@[simp] theorem clearFlags_y (s : State) : (clearFlags s).y = s.y := rfl
@[simp] theorem clearFlags_z (s : State) : (clearFlags s).z = s.z := rfl
@[simp] theorem clearFlags_st (s : State) : (clearFlags s).st = s.st := rfl
@[simp] theorem clearFlags_idx (s : State) : (clearFlags s).idx = s.idx := rfl
@[simp] theorem clearFlags_run (s : State) : (clearFlags s).run = s.run := rfl
@[simp] theorem clearFlags_done (s : State) : (clearFlags s).done = false := rfl
@[simp] theorem clearFlags_pkt (s : State) : (clearFlags s).pkt = false := rfl
@[simp] theorem clearFlags_mis (s : State) : (clearFlags s).mis = false := rfl
@[simp] theorem clearFlags_result (s : State) : (clearFlags s).result = .indeterminate := rfl
@[simp] theorem clearFlags_blk (s : State) : (clearFlags s).blk = s.blk := rfl
@[simp] theorem clearFlags_inputs (s : State) : (clearFlags s).inputs = s.inputs := rfl
@[simp] theorem clearFlags_evtLog (s : State) : (clearFlags s).evtLog = s.evtLog := rfl

@[simp] theorem completionFlags_x (s : State) : (completionFlags s).x = s.x := rfl
@[simp] theorem completionFlags_y (s : State) : (completionFlags s).y = s.y := rfl
@[simp] theorem completionFlags_z (s : State) : (completionFlags s).z = s.z := rfl
@[simp] theorem completionFlags_st (s : State) : (completionFlags s).st = s.st := rfl
@[simp] theorem completionFlags_idx (s : State) : (completionFlags s).idx = s.idx := rfl
@[simp] theorem completionFlags_run (s : State) : (completionFlags s).run = false := rfl
@[simp] theorem completionFlags_done (s : State) : (completionFlags s).done = true := rfl
@[simp] theorem completionFlags_pkt (s : State) : (completionFlags s).pkt = true := rfl
@[simp] theorem completionFlags_mis (s : State) : (completionFlags s).mis = s.mis := rfl
@[simp] theorem completionFlags_result (s : State) : (completionFlags s).result = classify cfg s.x s.y := rfl
@[simp] theorem completionFlags_blk (s : State) : (completionFlags s).blk = s.blk := rfl
@[simp] theorem completionFlags_inputs (s : State) : (completionFlags s).inputs = s.inputs := rfl
@[simp] theorem completionFlags_evtLog (s : State) : (completionFlags s).evtLog = s.evtLog := rfl

@[simp] theorem endOfScan_x (s : State) : (endOfScan s).x = s.x := rfl
@[simp] theorem endOfScan_y (s : State) : (endOfScan s).y = s.y := rfl
@[simp] theorem endOfScan_z (s : State) : (endOfScan s).z = s.z := rfl
@[simp] theorem endOfScan_st (s : State) : (endOfScan s).st = s.st := rfl
@[simp] theorem endOfScan_idx (s : State) : (endOfScan s).idx = s.idx := rfl
@[simp] theorem endOfScan_run (s : State) : (endOfScan s).run = false := rfl
@[simp] theorem endOfScan_done (s : State) : (endOfScan s).done = true := rfl
@[simp] theorem endOfScan_pkt (s : State) : (endOfScan s).pkt = s.pkt := rfl
@[simp] theorem endOfScan_mis (s : State) : (endOfScan s).mis = s.mis := rfl
@[simp] theorem endOfScan_result (s : State) : (endOfScan s).result = .indeterminate := rfl
@[simp] theorem endOfScan_blk (s : State) : (endOfScan s).blk = s.blk := rfl
@[simp] theorem endOfScan_inputs (s : State) : (endOfScan s).inputs = s.inputs := rfl
@[simp] theorem endOfScan_evtLog (s : State) : (endOfScan s).evtLog = s.evtLog := rfl

@[simp] theorem clearXYZ_x (s : State) : (clearXYZ s).x = 0 := rfl
@[simp] theorem clearXYZ_y (s : State) : (clearXYZ s).y = 0 := rfl
@[simp] theorem clearXYZ_z (s : State) : (clearXYZ s).z = 0 := rfl
@[simp] theorem clearXYZ_st (s : State) : (clearXYZ s).st = s.st := rfl
@[simp] theorem clearXYZ_idx (s : State) : (clearXYZ s).idx = s.idx := rfl
@[simp] theorem clearXYZ_run (s : State) : (clearXYZ s).run = s.run := rfl
@[simp] theorem clearXYZ_done (s : State) : (clearXYZ s).done = s.done := rfl
@[simp] theorem clearXYZ_pkt (s : State) : (clearXYZ s).pkt = s.pkt := rfl
@[simp] theorem clearXYZ_mis (s : State) : (clearXYZ s).mis = s.mis := rfl
@[simp] theorem clearXYZ_result (s : State) : (clearXYZ s).result = s.result := rfl
@[simp] theorem clearXYZ_blk (s : State) : (clearXYZ s).blk = s.blk := rfl
@[simp] theorem clearXYZ_inputs (s : State) : (clearXYZ s).inputs = s.inputs := rfl
@[simp] theorem clearXYZ_evtLog (s : State) : (clearXYZ s).evtLog = s.evtLog := rfl

@[simp] theorem setX_x (v : Sample) (s : State) : (setX v s).x = v := rfl
@[simp] theorem setX_y (v : Sample) (s : State) : (setX v s).y = s.y := rfl
@[simp] theorem setX_z (v : Sample) (s : State) : (setX v s).z = s.z := rfl
@[simp] theorem setX_st (v : Sample) (s : State) : (setX v s).st = s.st := rfl
@[simp] theorem setX_idx (v : Sample) (s : State) : (setX v s).idx = s.idx := rfl
@[simp] theorem setX_run (v : Sample) (s : State) : (setX v s).run = s.run := rfl
@[simp] theorem setX_done (v : Sample) (s : State) : (setX v s).done = s.done := rfl
@[simp] theorem setX_pkt (v : Sample) (s : State) : (setX v s).pkt = s.pkt := rfl
@[simp] theorem setX_mis (v : Sample) (s : State) : (setX v s).mis = s.mis := rfl
@[simp] theorem setX_result (v : Sample) (s : State) : (setX v s).result = s.result := rfl
@[simp] theorem setX_blk (v : Sample) (s : State) : (setX v s).blk = s.blk := rfl
@[simp] theorem setX_inputs (v : Sample) (s : State) : (setX v s).inputs = s.inputs := rfl
@[simp] theorem setX_evtLog (v : Sample) (s : State) : (setX v s).evtLog = s.evtLog := rfl

@[simp] theorem setY_x (v : Sample) (s : State) : (setY v s).x = s.x := rfl
@[simp] theorem setY_y (v : Sample) (s : State) : (setY v s).y = v := rfl
@[simp] theorem setY_z (v : Sample) (s : State) : (setY v s).z = s.z := rfl
@[simp] theorem setY_st (v : Sample) (s : State) : (setY v s).st = s.st := rfl
@[simp] theorem setY_idx (v : Sample) (s : State) : (setY v s).idx = s.idx := rfl
@[simp] theorem setY_run (v : Sample) (s : State) : (setY v s).run = s.run := rfl
@[simp] theorem setY_done (v : Sample) (s : State) : (setY v s).done = s.done := rfl
@[simp] theorem setY_pkt (v : Sample) (s : State) : (setY v s).pkt = s.pkt := rfl
@[simp] theorem setY_mis (v : Sample) (s : State) : (setY v s).mis = s.mis := rfl
@[simp] theorem setY_result (v : Sample) (s : State) : (setY v s).result = s.result := rfl
@[simp] theorem setY_blk (v : Sample) (s : State) : (setY v s).blk = s.blk := rfl
@[simp] theorem setY_inputs (v : Sample) (s : State) : (setY v s).inputs = s.inputs := rfl
@[simp] theorem setY_evtLog (v : Sample) (s : State) : (setY v s).evtLog = s.evtLog := rfl

@[simp] theorem setZ_x (v : Sample) (s : State) : (setZ v s).x = s.x := rfl
@[simp] theorem setZ_y (v : Sample) (s : State) : (setZ v s).y = s.y := rfl
@[simp] theorem setZ_z (v : Sample) (s : State) : (setZ v s).z = v := rfl
@[simp] theorem setZ_st (v : Sample) (s : State) : (setZ v s).st = s.st := rfl
@[simp] theorem setZ_idx (v : Sample) (s : State) : (setZ v s).idx = s.idx := rfl
@[simp] theorem setZ_run (v : Sample) (s : State) : (setZ v s).run = s.run := rfl
@[simp] theorem setZ_done (v : Sample) (s : State) : (setZ v s).done = s.done := rfl
@[simp] theorem setZ_pkt (v : Sample) (s : State) : (setZ v s).pkt = s.pkt := rfl
@[simp] theorem setZ_mis (v : Sample) (s : State) : (setZ v s).mis = s.mis := rfl
@[simp] theorem setZ_result (v : Sample) (s : State) : (setZ v s).result = s.result := rfl
@[simp] theorem setZ_blk (v : Sample) (s : State) : (setZ v s).blk = s.blk := rfl
@[simp] theorem setZ_inputs (v : Sample) (s : State) : (setZ v s).inputs = s.inputs := rfl
@[simp] theorem setZ_evtLog (v : Sample) (s : State) : (setZ v s).evtLog = s.evtLog := rfl

@[simp] theorem setSt_x (d : DecState) (s : State) : (setSt d s).x = s.x := rfl
@[simp] theorem setSt_y (d : DecState) (s : State) : (setSt d s).y = s.y := rfl
@[simp] theorem setSt_z (d : DecState) (s : State) : (setSt d s).z = s.z := rfl
@[simp] theorem setSt_st (d : DecState) (s : State) : (setSt d s).st = d := rfl
@[simp] theorem setSt_idx (d : DecState) (s : State) : (setSt d s).idx = s.idx := rfl
@[simp] theorem setSt_run (d : DecState) (s : State) : (setSt d s).run = s.run := rfl
@[simp] theorem setSt_done (d : DecState) (s : State) : (setSt d s).done = s.done := rfl
@[simp] theorem setSt_pkt (d : DecState) (s : State) : (setSt d s).pkt = s.pkt := rfl
@[simp] theorem setSt_mis (d : DecState) (s : State) : (setSt d s).mis = s.mis := rfl
@[simp] theorem setSt_result (d : DecState) (s : State) : (setSt d s).result = s.result := rfl
@[simp] theorem setSt_blk (d : DecState) (s : State) : (setSt d s).blk = s.blk := rfl
@[simp] theorem setSt_inputs (d : DecState) (s : State) : (setSt d s).inputs = s.inputs := rfl
@[simp] theorem setSt_evtLog (d : DecState) (s : State) : (setSt d s).evtLog = s.evtLog := rfl

@[simp] theorem initRegisters_x (s : State) : (initRegisters s).x = 0 := rfl
@[simp] theorem initRegisters_y (s : State) : (initRegisters s).y = 0 := rfl
@[simp] theorem initRegisters_z (s : State) : (initRegisters s).z = 0 := rfl
@[simp] theorem initRegisters_st (s : State) : (initRegisters s).st = .seekStart := rfl
@[simp] theorem initRegisters_idx (s : State) : (initRegisters s).idx = 0 := rfl
@[simp] theorem initRegisters_run (s : State) : (initRegisters s).run = s.run := rfl
@[simp] theorem initRegisters_done (s : State) : (initRegisters s).done = false := rfl
@[simp] theorem initRegisters_pkt (s : State) : (initRegisters s).pkt = false := rfl
@[simp] theorem initRegisters_mis (s : State) : (initRegisters s).mis = false := rfl
@[simp] theorem initRegisters_result (s : State) : (initRegisters s).result = .indeterminate := rfl
@[simp] theorem initRegisters_blk (s : State) : (initRegisters s).blk = s.blk := rfl
@[simp] theorem initRegisters_inputs (s : State) : (initRegisters s).inputs = s.inputs := rfl
@[simp] theorem initRegisters_evtLog (s : State) : (initRegisters s).evtLog = s.evtLog := rfl

@[simp] theorem mismatch_x (t : Tag) (s : State) : (mismatch t s).x = s.x := rfl
@[simp] theorem mismatch_y (t : Tag) (s : State) : (mismatch t s).y = s.y := rfl
@[simp] theorem mismatch_z (t : Tag) (s : State) : (mismatch t s).z = s.z := rfl
@[simp] theorem mismatch_st (t : Tag) (s : State) : (mismatch t s).st = .seekStart := rfl
@[simp] theorem mismatch_idx (t : Tag) (s : State) : (mismatch t s).idx = s.idx := rfl
@[simp] theorem mismatch_run (t : Tag) (s : State) : (mismatch t s).run = s.run := rfl
@[simp] theorem mismatch_done (t : Tag) (s : State) : (mismatch t s).done = s.done := rfl
@[simp] theorem mismatch_pkt (t : Tag) (s : State) : (mismatch t s).pkt = s.pkt := rfl
@[simp] theorem mismatch_mis (t : Tag) (s : State) : (mismatch t s).mis = true := rfl
@[simp] theorem mismatch_result (t : Tag) (s : State) : (mismatch t s).result = s.result := rfl
@[simp] theorem mismatch_blk (t : Tag) (s : State) : (mismatch t s).blk = s.blk := rfl
@[simp] theorem mismatch_inputs (t : Tag) (s : State) : (mismatch t s).inputs = s.inputs := rfl
@[simp] theorem mismatch_evtLog (t : Tag) (s : State) : (mismatch t s).evtLog = s.evtLog ++ [⟨s.idx, s.st, t⟩] := rfl

@[simp] theorem skip_x (s : State) : (skip s).x = s.x := rfl
@[simp] theorem skip_y (s : State) : (skip s).y = s.y := rfl
@[simp] theorem skip_z (s : State) : (skip s).z = s.z := rfl
@[simp] theorem skip_st (s : State) : (skip s).st = s.st := rfl
@[simp] theorem skip_idx (s : State) : (skip s).idx = s.idx := rfl
@[simp] theorem skip_run (s : State) : (skip s).run = s.run := rfl
@[simp] theorem skip_done (s : State) : (skip s).done = s.done := rfl
@[simp] theorem skip_pkt (s : State) : (skip s).pkt = s.pkt := rfl
@[simp] theorem skip_mis (s : State) : (skip s).mis = s.mis := rfl
@[simp] theorem skip_result (s : State) : (skip s).result = s.result := rfl
@[simp] theorem skip_blk (s : State) : (skip s).blk = s.blk := rfl
@[simp] theorem skip_inputs (s : State) : (skip s).inputs = s.inputs := rfl
@[simp] theorem skip_evtLog (s : State) : (skip s).evtLog = s.evtLog := rfl

@[simp] theorem advance_x (s : State) : (advance s).x = s.x := rfl
@[simp] theorem advance_y (s : State) : (advance s).y = s.y := rfl
@[simp] theorem advance_z (s : State) : (advance s).z = s.z := rfl
@[simp] theorem advance_st (s : State) : (advance s).st = s.st := rfl
@[simp] theorem advance_idx (s : State) : (advance s).idx = s.idx + 1 := rfl
@[simp] theorem advance_run (s : State) : (advance s).run = s.run := rfl
@[simp] theorem advance_done (s : State) : (advance s).done = s.done := rfl
@[simp] theorem advance_pkt (s : State) : (advance s).pkt = s.pkt := rfl
@[simp] theorem advance_mis (s : State) : (advance s).mis = s.mis := rfl
@[simp] theorem advance_result (s : State) : (advance s).result = s.result := rfl
@[simp] theorem advance_blk (s : State) : (advance s).blk = s.blk := rfl
@[simp] theorem advance_inputs (s : State) : (advance s).inputs = s.inputs := rfl
@[simp] theorem advance_evtLog (s : State) : (advance s).evtLog = s.evtLog := rfl

@[simp] theorem complete_x (v : Sample) (s : State) : (complete v s).x = s.x := rfl
@[simp] theorem complete_y (v : Sample) (s : State) : (complete v s).y = s.y := rfl
@[simp] theorem complete_z (v : Sample) (s : State) : (complete v s).z = v := rfl
@[simp] theorem complete_st (v : Sample) (s : State) : (complete v s).st = s.st := rfl
@[simp] theorem complete_idx (v : Sample) (s : State) : (complete v s).idx = s.idx + 1 := rfl
@[simp] theorem complete_run (v : Sample) (s : State) : (complete v s).run = false := rfl
@[simp] theorem complete_done (v : Sample) (s : State) : (complete v s).done = true := rfl
@[simp] theorem complete_pkt (v : Sample) (s : State) : (complete v s).pkt = true := rfl
@[simp] theorem complete_mis (v : Sample) (s : State) : (complete v s).mis = s.mis := rfl
@[simp] theorem complete_result (v : Sample) (s : State) : (complete v s).result = classify cfg s.x s.y := rfl
@[simp] theorem complete_blk (v : Sample) (s : State) : (complete v s).blk = s.blk := rfl
@[simp] theorem complete_inputs (v : Sample) (s : State) : (complete v s).inputs = s.inputs := rfl
@[simp] theorem complete_evtLog (v : Sample) (s : State) : (complete v s).evtLog = s.evtLog := rfl

@[simp] theorem dropMove_x (s : State) : (dropMove s).x = s.x := rfl
@[simp] theorem dropMove_y (s : State) : (dropMove s).y = s.y := rfl
@[simp] theorem dropMove_z (s : State) : (dropMove s).z = s.z := rfl
@[simp] theorem dropMove_st (s : State) : (dropMove s).st = s.st := rfl
@[simp] theorem dropMove_idx (s : State) : (dropMove s).idx = s.idx := rfl
@[simp] theorem dropMove_run (s : State) : (dropMove s).run = s.run := rfl
@[simp] theorem dropMove_done (s : State) : (dropMove s).done = s.done := rfl
@[simp] theorem dropMove_pkt (s : State) : (dropMove s).pkt = s.pkt := rfl
@[simp] theorem dropMove_mis (s : State) : (dropMove s).mis = s.mis := rfl
@[simp] theorem dropMove_result (s : State) : (dropMove s).result = s.result := rfl
@[simp] theorem dropMove_blk (s : State) : (dropMove s).blk = s.blk := rfl
@[simp] theorem dropMove_inputs (s : State) : (dropMove s).inputs = s.inputs.tail := rfl
@[simp] theorem dropMove_evtLog (s : State) : (dropMove s).evtLog = s.evtLog := rfl

end Sys2Proof.Machine
end

