-- ==== Sys2Proof/Laws/Ops.lean ====
section
/-! SUPPORT. What the tail of a ScanStep, a host write, a command and a sub-record operation can do, each said once. -/

namespace Sys2Proof.Machine

/-! ## The tail of a ScanStep -/

@[simp] theorem scanTail_x (s : State) : (scanTail s).x = s.x := by unfold scanTail; split <;> rfl
@[simp] theorem scanTail_y (s : State) : (scanTail s).y = s.y := by unfold scanTail; split <;> rfl
@[simp] theorem scanTail_z (s : State) : (scanTail s).z = s.z := by unfold scanTail; split <;> rfl
@[simp] theorem scanTail_st (s : State) : (scanTail s).st = s.st := by unfold scanTail; split <;> rfl
@[simp] theorem scanTail_pkt (s : State) : (scanTail s).pkt = s.pkt := by unfold scanTail; split <;> rfl
@[simp] theorem scanTail_mis (s : State) : (scanTail s).mis = s.mis := by unfold scanTail; split <;> rfl
@[simp] theorem scanTail_blk (s : State) : (scanTail s).blk = s.blk := by unfold scanTail; split <;> rfl
@[simp] theorem scanTail_inputs (s : State) : (scanTail s).inputs = s.inputs := by unfold scanTail; split <;> rfl
@[simp] theorem scanTail_evtLog (s : State) : (scanTail s).evtLog = s.evtLog := by unfold scanTail; split <;> rfl

@[simp] theorem scanTail_idx (s : State) : (scanTail s).idx = s.idx + 1 := by unfold scanTail; split <;> rfl

/-- Whether IDX selects the seventh sub-record. -/
theorem idx_last_iff (i : BitVec 3) : i.toNat + 1 = cfg.nsub ↔ i = 6 := by
  constructor
  · intro h
    simp only [cfg_nsub] at h
    exact BitVec.eq_of_toNat_eq (by simp; omega)
  · rintro rfl; rfl

@[simp] theorem scanTail_run (s : State) : (scanTail s).run = if s.idx = 6 then false else s.run := by
  unfold scanTail; simp only [idx_last_iff]; split <;> rfl

@[simp] theorem scanTail_done (s : State) : (scanTail s).done = if s.idx = 6 then true else s.done := by
  unfold scanTail; simp only [idx_last_iff]; split <;> rfl

@[simp] theorem scanTail_result (s : State) :
    (scanTail s).result = if s.idx = 6 then .indeterminate else s.result := by
  unfold scanTail; simp only [idx_last_iff]; split <;> rfl

/-- The tail as one record: everything it can write. -/
theorem scanTail_eq (s : State) :
    scanTail s =
      { s with
        idx := s.idx + 1
        run := if s.idx = 6 then false else s.run
        done := if s.idx = 6 then true else s.done
        result := if s.idx = 6 then .indeterminate else s.result } := by
  unfold scanTail; simp only [idx_last_iff]; split <;> rfl

/-! ## The classifier -/

/-- The classifier with the constants of R6 written out (42_classify.md R83). -/
theorem classify_cfg (x y : Sample) :
    classify cfg x y =
      if y = 0xFFFF ∧ (x = 0xFFFF ∨ x = 0x0000) then .normal
      else if x = 0x0000 ∧ y = 0x0000 then .left
      else if x = 0xFFFF ∧ y = 0x0000 then .right
      else .indeterminate := rfl

/-! ## Host writes and commands -/

/-- A host write that goes through: RUN = 0, the address is in BLK, and BLK alone changes. -/
theorem hostLoad_next {a : Nat} {v : Sample} {s t : State} (h : hostLoad a v s = .next t) :
    s.run = false ∧ a < cfg.blockLen ∧ t = { s with blk := s.blk.write a v } := by
  unfold hostLoad at h
  split at h
  · cases h
  · split at h
    · exact ⟨by simp_all, ‹_›, by cases h; rfl⟩
    · cases h

/-- A START that goes through: BLK is loaded, and the registers are those of a new scan. -/
theorem execStart_next {s t : State} (h : execStart s = .next t) :
    s.blk.loaded = true ∧ t = { initRegisters s with run := true } := by
  unfold execStart at h
  split at h
  · exact ⟨‹_›, by cases h; rfl⟩
  · cases h

theorem execReset_next {s t : State} (h : execReset s = .next t) : t = { initRegisters s with run := false } := by
  cases h; rfl

/-! ## The sub-record operations -/

/-- Every sub-record step is a skip, a match (of BND, XAX, YAX or ZAX) or a mismatch; it always has a next state. -/
theorem exec_subRecord_cases {i : Instr} {c : SubClass} (hc : i.subClass = some c) (s : State) :
    (s.st = .seekStart ∧ c ≠ .bnd ∧ exec i s = .next (scanTail s)) ∨
    (s.st = .seekStart ∧ i = .bnd ∧ exec i s = .next (scanTail (setSt .wantX (clearXYZ s)))) ∨
    (∃ v, s.st = .wantX ∧ i = .xax v ∧ exec i s = .next (scanTail (setSt .wantY (setX v s)))) ∨
    (∃ v, s.st = .wantY ∧ i = .yax v ∧ exec i s = .next (scanTail (setSt .wantZ (setY v s)))) ∨
    (∃ v, s.st = .wantZ ∧ i = .zax v ∧ exec i s = .next (complete v s)) ∨
    (∃ t, s.st ≠ .seekStart ∧ c ≠ wantedClass s.st ∧ i.tag cfg = some t ∧
      exec i s = .next (scanTail (mismatch t s))) := by
  cases i <;> cases hc <;> cases hs : s.st <;>
    simp [exec, execBnd, execXax, execYax, execZax, execOth, hs, wantedClass, Instr.tag, skip]

end Sys2Proof.Machine
end

