-- ==== Sys2Proof/Laws/Step.lean ====
section
/-! SUPPORT. What a step can do, said once, and what the fetch finds. -/

namespace Sys2Proof.Machine

/-! ## The fetch -/

/-- A successful read of one sample. -/
theorem memRead_ok {m : Memory} {a : Nat} {v : Sample} : memRead m a = .ok v ↔ m.read a = some v := by
  unfold memRead
  cases m.read a <;> simp

/-- The sub-record fetched when its three samples are loaded (40_scan_control.md R62). -/
theorem fetchSubRecord_of_read {s : State} {t0 t1 v : Sample} (hi : s.idx.toNat < 7)
    (h0 : s.blk.read (8 * s.idx.toNat + 4) = some t0) (h1 : s.blk.read (8 * s.idx.toNat + 5) = some t1)
    (hv : s.blk.read (8 * s.idx.toNat + 7) = some v) : fetchSubRecord s = .ok (decodeFields t0 t1 v) := by
  simp [fetchSubRecord, tagOf, valOf, sampleAddr, memRead, hi, h0, h1, hv]

/-- A sub-record is fetched only from a loaded one that IDX selects, and it is the decoding of its three samples. -/
theorem fetchSubRecord_ok {s : State} {i : Instr} (h : fetchSubRecord s = .ok i) :
    s.idx.toNat < 7 ∧ ∃ t0 t1 v, s.blk.read (8 * s.idx.toNat + 4) = some t0 ∧
      s.blk.read (8 * s.idx.toNat + 5) = some t1 ∧ s.blk.read (8 * s.idx.toNat + 7) = some v ∧
      i = decodeFields t0 t1 v := by
  unfold fetchSubRecord at h
  split at h
  · rename_i hi
    refine ⟨hi, ?_⟩
    simp only [tagOf, valOf, sampleAddr, memRead, cfg_subrecLen, cfg_tag0Off, cfg_tag1Off, cfg_valOff] at h
    cases h0 : s.blk.read (8 * s.idx.toNat + 4) <;> cases h1 : s.blk.read (8 * s.idx.toNat + 5) <;>
      cases hv : s.blk.read (8 * s.idx.toNat + 7) <;> simp_all
  · cases h

/-- The sub-record of a loaded BLK is fetched. -/
theorem fetchSubRecord_loaded {s : State} (hl : s.blk.loaded = true) (hi : s.idx.toNat < 7) :
    ∃ i, fetchSubRecord s = .ok i := by
  rw [Memory.loaded_iff] at hl
  simp only [cfg_blockLen] at hl
  obtain ⟨t0, h0⟩ := hl (8 * s.idx.toNat + 4) (by omega)
  obtain ⟨t1, h1⟩ := hl (8 * s.idx.toNat + 5) (by omega)
  obtain ⟨v, hv⟩ := hl (8 * s.idx.toNat + 7) (by omega)
  exact ⟨_, fetchSubRecord_of_read hi h0 h1 hv⟩

/-- What the fetch finds, by the host's move and RUN (60_exceptions.md R96, 40_scan_control.md R62, R65). -/
theorem fetch_of_load {s : State} {a : Nat} {v : Sample} (h : nextMove s = .load a v) : fetch s = .write a v := by
  simp [fetch, h]

theorem fetch_of_rst {s : State} {b : Bool} (h : nextMove s = .pins true b) : fetch s = .instr .reset := by
  simp [fetch, h, decodePins]

theorem fetch_of_start {s : State} (h : nextMove s = .pins false true) : fetch s = .instr .start := by
  simp [fetch, h, decodePins]

theorem fetch_of_idle {s : State} (h : nextMove s = .pins false false) (hr : s.run = false) : fetch s = .idle := by
  simp [fetch, h, decodePins, hr]

theorem fetch_of_scan {s : State} {i : Instr} (h : nextMove s = .pins false false) (hr : s.run = true)
    (hf : fetchSubRecord s = .ok i) : fetch s = .instr i := by
  simp [fetch, h, decodePins, hr, hf]

/-- The fetch looks at the host's moves, RUN, IDX and BLK, and at nothing else. -/
theorem fetch_congr {s s' : State} (hm : s'.inputs = s.inputs) (hr : s'.run = s.run) (hi : s'.idx = s.idx)
    (hb : s'.blk = s.blk) : fetch s' = fetch s := by
  cases s; cases s'; simp only at hm hr hi hb; subst hm hr hi hb; rfl

/-! ## The step -/

/-- Everything a step with a next state can be: nothing, a host write, RESET, START, or the ScanStep of a sub-record. -/
theorem step_cases {s t : State} (h : step s = .next t) :
    (nextMove s = .pins false false ∧ s.run = false ∧ t = dropMove s) ∨
    (∃ a v, nextMove s = .load a v ∧ s.run = false ∧ a < cfg.blockLen ∧
      t = { dropMove s with blk := s.blk.write a v }) ∨
    (∃ b, nextMove s = .pins true b ∧ t = { initRegisters (dropMove s) with run := false }) ∨
    (nextMove s = .pins false true ∧ s.blk.loaded = true ∧ t = { initRegisters (dropMove s) with run := true }) ∨
    (∃ i c, nextMove s = .pins false false ∧ s.run = true ∧ fetchSubRecord s = .ok i ∧
      i.subClass = some c ∧ exec i (dropMove s) = .next t) := by
  cases hm : nextMove s with
  | load a v =>
    rw [step, fetch_of_load hm] at h
    obtain ⟨h1, h2, h3⟩ := hostLoad_next h
    exact .inr (.inl ⟨a, v, rfl, h1, h2, h3⟩)
  | pins rst start =>
    cases rst with
    | true =>
      rw [step, fetch_of_rst hm] at h
      exact .inr (.inr (.inl ⟨start, rfl, execReset_next h⟩))
    | false =>
      cases start with
      | true =>
        rw [step, fetch_of_start hm] at h
        obtain ⟨h1, h2⟩ := execStart_next h
        exact .inr (.inr (.inr (.inl ⟨rfl, h1, h2⟩)))
      | false =>
        cases hr : s.run with
        | false =>
          rw [step, fetch_of_idle hm hr] at h
          exact .inl ⟨rfl, rfl, by cases h; rfl⟩
        | true =>
          cases hf : fetchSubRecord s with
          | error f => simp [step, fetch, hm, decodePins, hr, hf] at h
          | ok i =>
            rw [step, fetch_of_scan hm hr hf] at h
            obtain ⟨-, t0, t1, v, -, -, -, rfl⟩ := fetchSubRecord_ok hf
            exact .inr (.inr (.inr (.inr ⟨_, _, rfl, rfl, rfl, decodeFields_subClass t0 t1 v, h⟩)))

end Sys2Proof.Machine
end

