-- ==== Sys2Proof/Laws/Fetch.lean ====
section
/-! SUPPORT. What placing a word leaves, and that the next step fetches exactly the word's instruction (log 14). -/

namespace Sys2Proof.Machine

/-- The fill of the last `n` addresses, by sample and by form. -/
theorem Memory.fillFrom_spec (n a : Nat) (m : Memory) (hn : a + n = cfg.blockLen) (h : Memory.risingFrom a m = true) :
    Memory.risingFrom a (Memory.fillFrom n a m) = true ∧
    ∀ a', (Memory.fillFrom n a m).read a' = if a ≤ a' ∧ a' < cfg.blockLen then some ((m.read a').getD 0x0000) else none := by
  induction n generalizing a m with
  | zero =>
    cases m with
    | nil => refine ⟨rfl, fun a' => ?_⟩; rw [if_neg (by omega)]; rfl
    | cons p m => obtain ⟨b, v⟩ := p; obtain ⟨h1, h2, -⟩ := (Memory.risingFrom_cons ..).1 h; omega
  | succ n ih =>
    cases m with
    | nil =>
      obtain ⟨h1, h2⟩ := ih (a + 1) [] (by omega) rfl
      refine ⟨(Memory.risingFrom_cons ..).2 ⟨le_refl _, by omega, h1⟩, fun a' => ?_⟩
      rw [Memory.fillFrom, Memory.read_cons, h2]
      by_cases e : a' = a
      · rw [if_pos e, if_pos (by omega)]; rfl
      · rw [if_neg e]; exact if_congr (by omega) rfl rfl
    | cons p m =>
      obtain ⟨b, v⟩ := p
      obtain ⟨h1, h2, h3⟩ := (Memory.risingFrom_cons ..).1 h
      by_cases e : b = a
      · subst e
        obtain ⟨k1, k2⟩ := ih (b + 1) m (by omega) h3
        rw [Memory.fillFrom, if_pos rfl]
        refine ⟨(Memory.risingFrom_cons ..).2 ⟨le_refl _, h2, k1⟩, fun a' => ?_⟩
        rw [Memory.read_cons, Memory.read_cons, k2]
        by_cases e : a' = b
        · rw [if_pos e, if_pos (by omega), if_pos e]; rfl
        · rw [if_neg e, if_neg e]; exact if_congr (by omega) rfl rfl
      · have hr : Memory.risingFrom (a + 1) ((b, v) :: m) = true := (Memory.risingFrom_cons ..).2 ⟨by omega, h2, h3⟩
        obtain ⟨k1, k2⟩ := ih (a + 1) ((b, v) :: m) (by omega) hr
        rw [Memory.fillFrom, if_neg e]
        refine ⟨(Memory.risingFrom_cons ..).2 ⟨le_refl _, by omega, k1⟩, fun a' => ?_⟩
        rw [Memory.read_cons, k2]
        by_cases e' : a' = a
        · rw [if_pos e', if_pos (by omega), Memory.read_below _ (a + 1) a' hr (by omega)]; rfl
        · rw [if_neg e']; exact if_congr (by omega) rfl rfl

theorem Memory.wf_filled (m : Memory) (h : m.wf = true) : m.filled.wf = true :=
  (Memory.fillFrom_spec _ 0 m rfl h).1

theorem Memory.read_filled (m : Memory) (h : m.wf = true) (a : Nat) :
    m.filled.read a = if a < cfg.blockLen then some ((m.read a).getD 0x0000) else none := by
  rw [Memory.filled, (Memory.fillFrom_spec _ 0 m rfl h).2]
  exact if_congr (by omega) rfl rfl

theorem Memory.loaded_filled (m : Memory) (h : m.wf = true) : m.filled.loaded = true :=
  (Memory.loaded_iff _).2 fun a ha => ⟨_, by rw [Memory.read_filled m h, if_pos ha]⟩

/-- The eight samples of a placed word; every other address as before (30_encoding.md R46). -/
theorem Memory.read_placeWord (m : Memory) (i : Nat) (w : BitVec 128) (a : Nat) :
    (m.placeWord i w).read a = if 8 * i ≤ a ∧ a < 8 * i + 8 then some (wordSample w (a - 8 * i)) else m.read a := by
  have hr : List.range cfg.subrecLen = [0, 1, 2, 3, 4, 5, 6, 7] := rfl
  rw [Memory.placeWord, hr]
  simp only [List.foldl_cons, List.foldl_nil, Memory.read_write, sampleAddr, cfg_subrecLen]
  by_cases h : 8 * i ≤ a ∧ a < 8 * i + 8
  · rw [if_pos h]
    obtain ⟨k, rfl⟩ : ∃ k, a = 8 * i + k := ⟨a - 8 * i, by omega⟩
    have hk : k < 8 := by omega
    interval_cases k <;> simp
  · rw [if_neg h]
    repeat rw [if_neg (by omega)]

theorem Memory.wf_placeWord (m : Memory) (i : Nat) (w : BitVec 128) (h : m.wf = true) (hi : i < 7) :
    (m.placeWord i w).wf = true := by
  have hr : List.range cfg.subrecLen = [0, 1, 2, 3, 4, 5, 6, 7] := rfl
  have hb : ∀ k, k < 8 → sampleAddr i k < cfg.blockLen := by
    intro k hk; simp only [sampleAddr, cfg_subrecLen, cfg_blockLen]; omega
  rw [Memory.placeWord, hr]
  simp only [List.foldl_cons, List.foldl_nil]
  repeat apply Memory.wf_write
  exact h
  all_goals exact hb _ (by omega)

/-- After `withFetchWord`, the next step fetches the instruction the word decodes to. -/
theorem fetch_withFetchWord (s : State) (nbits w : Nat) {i : Instr} (h : decodeTableWord nbits w = some i) :
    fetch (s.withFetchWord nbits w) = .instr i := by
  unfold State.withFetchWord placeWord
  unfold decodeTableWord at h
  split_ifs at h ⊢ with hn
  · simp only [decodeCommand] at h
    split_ifs at h with hw
    · simp only [fetch, nextMove, placeCommand, List.headD_cons]
      cases hd : decodePins (w.testBit 1) (w.testBit 0) with
      | ok j => rw [hd] at h; simpa [Except.toOption] using h
      | error e => rw [hd] at h; cases h
    · cases h
  · have hi : i = decodeSubRecord (BitVec.ofNat 128 w) := by simpa [decode, Except.toOption] using h.symm
    subst hi
    refine fetch_of_scan rfl rfl ?_
    have hidx : (placeSubRecord (BitVec.ofNat 128 w) s).idx.toNat < 7 := by
      by_cases hlt : s.idx.toNat < 7 <;> simp [placeSubRecord, hlt]
    refine fetchSubRecord_of_read hidx ?_ ?_ ?_ <;>
      simp only [placeSubRecord, Memory.read_placeWord] <;> rw [if_pos (by omega)] <;> congr 2 <;> omega

/-- So the next step is exec of that instruction. -/
theorem step_withFetchWord (s : State) (nbits w : Nat) {i : Instr} (h : decodeTableWord nbits w = some i) :
    step (s.withFetchWord nbits w) = exec i (dropMove (s.withFetchWord nbits w)) := by
  rw [step, fetch_withFetchWord s nbits w h]

end Sys2Proof.Machine
end

