-- ==== Sys2Proof/Laws/PerInstr.lean ====
section
/-! SUPPORT. Statements about every instruction as syntax, one lemma per constructor. -/

namespace Sys2Proof.Laws

/-- Whether a code is a sub-record word. -/
def isSubRecordCode : Code → Bool
  | .sr _ => true
  | .cmd _ => false

/-- The encoder uses the format SR exactly for the instructions that have a class (30_encoding.md R50, 40_scan_control.md R60, R61). -/
def EncodingFormat.Statement (i : Instr) : Prop := isSubRecordCode (encode i) = i.subClass.isSome

theorem EncodingFormat.bnd : EncodingFormat.Statement .bnd := rfl
theorem EncodingFormat.xax (v : Sample) : EncodingFormat.Statement (.xax v) := rfl
theorem EncodingFormat.yax (v : Sample) : EncodingFormat.Statement (.yax v) := rfl
theorem EncodingFormat.zax (v : Sample) : EncodingFormat.Statement (.zax v) := rfl
theorem EncodingFormat.oth (t0 t1 v : Sample) : EncodingFormat.Statement (.oth t0 t1 v) := rfl
theorem EncodingFormat.reset : EncodingFormat.Statement .reset := rfl
theorem EncodingFormat.start : EncodingFormat.Statement .start := rfl

end Sys2Proof.Laws
end

