-- ==== Sys2Proof/Laws/Run.lean ====
section
/-! SUPPORT. Runs: how they compose, what loading a block leaves, and the one ScanStep of a loaded block. -/

namespace Sys2Proof.Machine

/-! ## Composing runs -/

theorem runSteps_add {m : Nat} {s t : State} (h : runSteps m s = .next t) (n : Nat) :
    runSteps (m + n) s = runSteps n t := by
  induction m generalizing s with
  | zero => cases h; rw [Nat.zero_add]
  | succ m ih =>
    rw [Nat.succ_add]
    simp only [runSteps] at h ⊢
    cases hs : step s with
    | next u => rw [hs] at h; exact ih h
    | fault f => rw [hs] at h; cases h
    | refused r => rw [hs] at h; cases h

/-- The last step of a run taken apart. -/
theorem runSteps_succ {m : Nat} {s t : State} (h : runSteps m s = .next t) : runSteps (m + 1) s = step t := by
  rw [runSteps_add h]
  simp only [runSteps]
  cases step t <;> rfl

/-- A run of `m + 1` steps has a next state after `m` of them. -/
theorem runSteps_prefix {m : Nat} {s t : State} (h : runSteps (m + 1) s = .next t) :
    ∃ u, runSteps m s = .next u ∧ step u = .next t := by
  induction m generalizing s with
  | zero =>
    simp only [runSteps] at h
    exact ⟨s, rfl, by cases hs : step s <;> simp_all⟩
  | succ m ih =>
    rw [runSteps] at h
    cases hs : step s with
    | next u =>
      rw [hs] at h
      obtain ⟨w, hw, ht⟩ := ih h
      exact ⟨w, by simpa [runSteps, hs] using hw, ht⟩
    | fault f => rw [hs] at h; cases h
    | refused r => rw [hs] at h; cases h

/-! ## Loading -/

/-- BLK after a list of writes. -/
def writeAll (ps : List (Nat × Sample)) (m : Memory) : Memory := ps.foldl (fun m p => m.write p.1 p.2) m

/-- The host's writes, each inside BLK, run one a step with RUN = 0. -/
theorem runSteps_loads (ps : List (Nat × Sample)) (hps : ∀ p ∈ ps, p.1 < cfg.blockLen) (s : State)
    (rest : List HostMove) (hr : s.run = false)
    (hin : s.inputs = ps.map (fun p => .load p.1 p.2) ++ rest) :
    runSteps ps.length s = .next { s with inputs := rest, blk := writeAll ps s.blk } := by
  induction ps generalizing s with
  | nil => cases s; simp only [List.map_nil, List.nil_append] at hin; subst hin; rfl
  | cons p ps ih =>
    have hm : nextMove s = .load p.1 p.2 := by simp [nextMove, hin]
    have hs : step s = .next { dropMove s with blk := s.blk.write p.1 p.2 } := by
      rw [step, fetch_of_load hm]
      simp only [hostLoad]
      rw [if_neg (by simp [hr]), if_pos (hps p (by simp))]
      rfl
    simp only [List.length_cons, runSteps, hs]
    exact ih (fun q hq => hps q (by simp [hq])) _ hr (by simp [dropMove, hin])

/-- Reading after writes at pairwise different addresses. -/
theorem read_writeAll (ps : List (Nat × Sample)) (hnd : (ps.map Prod.fst).Nodup) (m : Memory) {a : Nat} {v : Sample}
    (h : (a, v) ∈ ps) : (writeAll ps m).read a = some v := by
  have off : ∀ (ps : List (Nat × Sample)) (m : Memory), a ∉ ps.map Prod.fst → (writeAll ps m).read a = m.read a := by
    intro ps
    induction ps with
    | nil => intros; rfl
    | cons p ps ih =>
      intro m hm
      simp only [List.map_cons, List.mem_cons, not_or] at hm
      rw [writeAll, List.foldl_cons, ← writeAll, ih _ hm.2, Memory.read_write_other _ _ hm.1]
  induction ps generalizing m with
  | nil => cases h
  | cons p ps ih =>
    simp only [List.map_cons, List.nodup_cons] at hnd
    rw [writeAll, List.foldl_cons, ← writeAll]
    rcases List.mem_cons.1 h with rfl | h
    · rw [off ps _ hnd.1, Memory.read_write_same]
    · exact ih hnd.2 _ h

/-- Writes inside BLK keep the canonical form. -/
theorem wf_writeAll (ps : List (Nat × Sample)) (hps : ∀ p ∈ ps, p.1 < cfg.blockLen) (m : Memory) (h : m.wf = true) :
    (writeAll ps m).wf = true := by
  induction ps generalizing m with
  | nil => exact h
  | cons p ps ih =>
    exact ih (fun q hq => hps q (by simp [hq])) _ (Memory.wf_write m _ _ h (hps p (by simp)))

/-- The state in which the scan of block `b`, started in `s`, begins: BLK reads as `b`, no host move is left. -/
theorem hostCalls_started (b : RawBlock) (s : State) (hr : s.run = false) :
    ∃ m : Memory, (∀ a, a < 56 → m.read a = some (b.at a)) ∧
      runSteps 57 (hostCalls b s) = .next { initRegisters s with run := true, inputs := [], blk := m } := by
  let ps : List (Nat × Sample) := (List.range cfg.blockLen).map fun a => (a, b.at a)
  have hps : ∀ p ∈ ps, p.1 < cfg.blockLen := by
    intro p hp
    obtain ⟨a, ha, rfl⟩ := List.mem_map.1 hp
    exact List.mem_range.1 ha
  have hin : (hostCalls b s).inputs = ps.map (fun p => .load p.1 p.2) ++ [.pins false true] := by
    simp [hostCalls, hostScript, hostLoads, ps]
  have hread : ∀ a, a < 56 → (writeAll ps s.blk).read a = some (b.at a) := by
    intro a ha
    refine read_writeAll ps ?_ s.blk (List.mem_map.2 ⟨a, List.mem_range.2 ha, rfl⟩)
    simp only [ps, List.map_map]
    exact List.nodup_range.map fun _ _ h => h
  have hl := runSteps_loads ps hps (hostCalls b s) [.pins false true] hr hin
  have hlen : ps.length = 56 := by simp [ps]
  have hblk : (hostCalls b s).blk = s.blk := rfl
  rw [hlen, hblk] at hl
  refine ⟨writeAll ps s.blk, hread, ?_⟩
  generalize writeAll ps s.blk = m at hread hl
  have hloaded : m.loaded = true := (Memory.loaded_iff _).2 fun a ha => ⟨_, hread a ha⟩
  rw [runSteps_succ hl, step, fetch_of_start (by simp [nextMove])]
  simp only [exec, execStart, dropMove_blk, hloaded, if_true]
  rfl

/-! ## One ScanStep of a loaded block -/

/-- The ScanStep of sub-record IDX of block `b` with a silent host, in the six ways it can go. -/
theorem scanStep_cases (b : RawBlock) {u : State} (hin : u.inputs = []) (hr : u.run = true) (hi : u.idx.toNat < 7)
    (hb : ∀ a, a < 56 → u.blk.read a = some (b.at a)) :
    (u.st = .seekStart ∧ blockClass b u.idx.toNat ≠ .bnd ∧ step u = .next (scanTail u)) ∨
    (u.st = .seekStart ∧ blockClass b u.idx.toNat = .bnd ∧
      step u = .next (scanTail (setSt .wantX (clearXYZ u)))) ∨
    (u.st = .wantX ∧ blockClass b u.idx.toNat = .xax ∧
      step u = .next (scanTail (setSt .wantY (setX (b.at (8 * u.idx.toNat + 7)) u)))) ∨
    (u.st = .wantY ∧ blockClass b u.idx.toNat = .yax ∧
      step u = .next (scanTail (setSt .wantZ (setY (b.at (8 * u.idx.toNat + 7)) u)))) ∨
    (u.st = .wantZ ∧ blockClass b u.idx.toNat = .zax ∧ step u = .next (complete (b.at (8 * u.idx.toNat + 7)) u)) ∨
    (u.st ≠ .seekStart ∧ blockClass b u.idx.toNat ≠ wantedClass u.st ∧
      step u = .next (scanTail (mismatch (b.at (8 * u.idx.toNat + 4), b.at (8 * u.idx.toNat + 5)) u))) := by
  have hd : dropMove u = u := by cases u; simp only at hin; subst hin; rfl
  have hs : step u = exec (decodeFields (b.at (8 * u.idx.toNat + 4)) (b.at (8 * u.idx.toNat + 5))
      (b.at (8 * u.idx.toNat + 7))) u := by
    rw [step, fetch_of_scan (by simp [nextMove, hin]) hr
      (fetchSubRecord_of_read hi (hb _ (by omega)) (hb _ (by omega)) (hb _ (by omega))), hd]
  rw [hs, decodeFields_eq]
  simp only [blockClass]
  have hc := classOf_cfg (b.at (8 * u.idx.toNat + 4), b.at (8 * u.idx.toNat + 5))
  cases hcl : classOf cfg (b.at (8 * u.idx.toNat + 4), b.at (8 * u.idx.toNat + 5)) <;> rw [hcl] at hc <;>
    split_ifs at hc with h1 h2 h3 h4 <;> cases hst : u.st <;>
    simp_all [exec, execBnd, execXax, execYax, execZax, execOth, wantedClass, skip]

end Sys2Proof.Machine
end

