-- ==== Sys2Proof/Tests/Slice0.lean ====
section
/-! SUPPORT. Tests with expected values from the spec (95_test_vectors.md, 30_encoding.md), and a witness for the hypotheses of every statement. -/

namespace Sys2Proof.Tests
open Sys2Proof.Machine Sys2Proof.Claims

/-! ## Helpers -/

/-- The next state of an outcome, if it is one. -/
def after (o : Host.Outcome State Fault Refusal) : Option State :=
  match o with
  | .next t => some t
  | .fault _ => none
  | .refused _ => none

/-- The short forms of 30_encoding.md R54. -/
def bndForm : SubRecord := shortForm (0x0000, 0x0000) 0x0000
def xaxForm (v : Sample) : SubRecord := shortForm (0x0002, 0x0000) v
def yaxForm (v : Sample) : SubRecord := shortForm (0x0002, 0x0001) v
def zaxForm (v : Sample) : SubRecord := shortForm (0x0002, 0x0002) v

/-- The block of a listing. -/
def blockOf (l : List SubRecord) : RawBlock := (RawBlock.ofListing l).getD (Vector.replicate 56 0x0007)

/-- Program P1 of 95_test_vectors.md. -/
def p1 : RawBlock := blockOf [bndForm, xaxForm 0xFFFF, yaxForm 0xFFFF, zaxForm 0x0040, padForm, padForm, padForm]

/-- Program P2 of 95_test_vectors.md. -/
def p2 : RawBlock := blockOf [bndForm, xaxForm 0x0000, padForm, bndForm, xaxForm 0xFFFF, yaxForm 0x0000, zaxForm 0x1234]

/-- Seven PADs (V1). -/
def pads : RawBlock := blockOf [padForm, padForm, padForm, padForm, padForm, padForm, padForm]

/-- The registers of a step vector: RUN = 1, DONE = 0, PKT = 0, MIS = 0, RESULT = 4 (95_test_vectors.md section 4.2). -/
def vec (st : DecState) (x y z : Sample) (idx : BitVec 3) : State :=
  { State.reset with st := st, x := x, y := y, z := z, idx := idx, run := true }

/-- `vec` over a loaded block. -/
def vecOn (b : RawBlock) (st : DecState) (x y z : Sample) (idx : BitVec 3) : State :=
  { vec st x y z idx with blk := Memory.ofBlock b }

/-- State "before" of CMD3 over a loaded block: a finished scan with result Right. -/
def finished : State :=
  { State.reset with
    st := .wantZ, x := 0xFFFF, y := 0x0000, z := 0x0040, idx := 4, done := true, pkt := true, result := .right
    blk := Memory.ofBlock p1 }

/-- The registers a vector lists, in the order of its columns; RESULT by its code (10_state.md R18). -/
structure Seen where
  x : Sample
  y : Sample
  z : Sample
  st : DecState
  idx : BitVec 3
  run : Bool
  done : Bool
  pkt : Bool
  mis : Bool
  result : BitVec 3
deriving DecidableEq, Repr

/-- The registers of a state. -/
def see (t : State) : Seen := ⟨t.x, t.y, t.z, t.st, t.idx, t.run, t.done, t.pkt, t.mis, t.result.code⟩

/-- The registers after an instruction or a step. -/
def registers (o : Host.Outcome State Fault Refusal) : Option Seen := (after o).map see

/-! ## Well-formedness: an OTH with one of the four named tags is refused (R54) -/

theorem test_oth_with_tag_bnd_is_ill_formed : (Instr.oth 0x0000 0x0000 0x1234).wf cfg = false := by decide
theorem test_oth_with_tag_x_is_ill_formed : (Instr.oth 0x0002 0x0000 0x1234).wf cfg = false := by decide
theorem test_oth_with_tag_y_is_ill_formed : (Instr.oth 0x0002 0x0001 0x1234).wf cfg = false := by decide
theorem test_oth_with_tag_z_is_ill_formed : (Instr.oth 0x0002 0x0002 0x1234).wf cfg = false := by decide
theorem test_pad_is_well_formed : (Instr.oth 0x0001 0x0000 0x0000).wf cfg = true := by decide

/-! ## Decoding words written out from the spec: the listings of P1, P2 and P5; and words of the table's two command pins, as log 15 reads them -/

theorem test_decode_bnd : decode (.sr 0x00000000000000000000000000000000) = .ok .bnd := by decide
theorem test_decode_bnd_ignores_the_rest : decode (.sr 0xBEEF00C80000000000079F1000014A3B) = .ok .bnd := by decide
theorem test_decode_xax : decode (.sr 0x123400C80000000200079F1000014A3B) = .ok (.xax 0x1234) := by decide
theorem test_decode_yax : decode (.sr 0x567800C80001000200079F1000014A3B) = .ok (.yax 0x5678) := by decide
theorem test_decode_zax : decode (.sr 0xFFFF00C80002000200079F1000014A3B) = .ok (.zax 0xFFFF) := by decide
theorem test_decode_oth : decode (.sr 0xFFFF00C8FFFFFFFF00079F1000014A3B) = .ok (.oth 0xFFFF 0xFFFF 0xFFFF) := by decide
theorem test_decode_reset_pin : decode (.cmd 0b10) = .ok .reset ∧ decode (.cmd 0b11) = .ok .reset := by decide
theorem test_decode_start_pin : decode (.cmd 0b01) = .ok .start := by decide
theorem test_decode_no_pin_is_rejected : decode (.cmd 0b00) = .error .noCommand := by decide
theorem test_decode_wide_pin_word_is_rejected : decodeCommand 4 = .error .notACommandWord := by decide
theorem test_encode_as_printed :
    encode (.zax 0x1234) = .sr 0x12340000000200020000000000000000 ∧
    encode (.oth 0x0001 0x0000 0x0000) = .sr 0x00000000000000010000000000000000 := by decide

/-- The tag matcher on T1 to T15 of 95_test_vectors.md part 2. -/
theorem test_tag_matcher :
    ([(0x0000, 0x0000), (0x0002, 0x0000), (0x0002, 0x0001), (0x0002, 0x0002)] : List Tag).map (classOf cfg) =
      [.bnd, .xax, .yax, .zax] ∧
    ([(0x0001, 0x0000), (0x0000, 0x0002), (0x0001, 0x0002), (0x0000, 0x0001), (0x0002, 0x0003), (0x0003, 0x0000),
      (0x0102, 0x0000), (0x0002, 0x0100), (0x0200, 0x0000), (0xFFFF, 0xFFFF), (0x8002, 0x0001)] : List Tag).all
      (fun t => classOf cfg t == .oth) = true := by decide

/-- The classifier on K1 to K15 of 95_test_vectors.md part 3. -/
theorem test_classifier :
    ([(0xFFFF, 0xFFFF), (0x0000, 0xFFFF), (0x0000, 0x0000), (0xFFFF, 0x0000)] : List Tag).map
      (fun p => (classify cfg p.1 p.2).code.toNat) = [0, 0, 1, 2] ∧
    ([(0x1234, 0x5678), (0x0001, 0xFFFF), (0xFFFE, 0xFFFF), (0xFFFF, 0xFFFE), (0x0000, 0x0001), (0x0001, 0x0000),
      (0x8000, 0x0000), (0x7FFF, 0xFFFF), (0x00FF, 0x0000), (0xFFFF, 0x00FF), (0x1234, 0x0000)] : List Tag).all
      (fun p => (classify cfg p.1 p.2).code == 4) = true := by decide

/-! ## Single instructions: vectors S1 to S25 and CMD1 to CMD6 -/

/-- S1. -/
theorem test_bnd_starts_a_packet : registers (exec .bnd (vec .seekStart 0x1234 0x5678 0x9ABC 2)) =
    some ⟨0, 0, 0, .wantX, 3, true, false, false, false, 4⟩ := by decide

/-- S11. -/
theorem test_bnd_in_want_y_mismatches : registers (exec .bnd (vec .wantY 0xFFFF 0 0 2)) =
    some ⟨0xFFFF, 0, 0, .seekStart, 3, true, false, false, true, 4⟩ := by decide

/-- S7. -/
theorem test_xax_is_captured : registers (exec (.xax 0xFFFF) (vec .wantX 0 0 0 2)) =
    some ⟨0xFFFF, 0, 0, .wantY, 3, true, false, false, false, 4⟩ := by decide

/-- S12. -/
theorem test_second_xax_mismatches : registers (exec (.xax 0x0000) (vec .wantY 0xFFFF 0 0 2)) =
    some ⟨0xFFFF, 0, 0, .seekStart, 3, true, false, false, true, 4⟩ := by decide

/-- S23. -/
theorem test_yax_at_the_end_of_the_scan : registers (exec (.yax 0xFFFF) (vec .wantY 0 0 0 6)) =
    some ⟨0, 0xFFFF, 0, .wantZ, 7, false, true, false, false, 4⟩ := by decide

/-- S3. -/
theorem test_yax_is_skipped : registers (exec (.yax 0xFFFF) (vec .seekStart 0x1234 0x5678 0x9ABC 2)) =
    some ⟨0x1234, 0x5678, 0x9ABC, .seekStart, 3, true, false, false, false, 4⟩ := by decide

/-- S19. -/
theorem test_zax_completes : registers (exec (.zax 0x0040) (vec .wantZ 0xFFFF 0 0 2)) =
    some ⟨0xFFFF, 0, 0x0040, .wantZ, 3, false, true, true, false, 2⟩ := by decide

/-- S24. -/
theorem test_zax_completes_at_the_last_sub_record : registers (exec (.zax 0x0000) (vec .wantZ 0 0xFFFF 0 6)) =
    some ⟨0, 0xFFFF, 0, .wantZ, 7, false, true, true, false, 0⟩ := by decide

/-- S25, with its event (60_exceptions.md R91). -/
theorem test_oth_mismatches_at_the_end_of_the_scan :
    registers (exec (.oth 0x0001 0x0000 0x0000) (vec .wantZ 0 0xFFFF 0 6)) =
      some ⟨0, 0xFFFF, 0, .seekStart, 7, false, true, false, true, 4⟩ ∧
    (after (exec (.oth 0x0001 0x0000 0x0000) (vec .wantZ 0 0xFFFF 0 6))).map (·.evtLog) =
      some [⟨6, .wantZ, (0x0001, 0x0000)⟩] := by decide

/-- S5. -/
theorem test_oth_is_skipped :
    registers (exec (.oth 0x0001 0x0000 0x0000) (vec .seekStart 0x1234 0x5678 0x9ABC 2)) =
      some ⟨0x1234, 0x5678, 0x9ABC, .seekStart, 3, true, false, false, false, 4⟩ := by decide

/-- CMD1. -/
theorem test_reset_in_a_scan : registers (exec .reset { vec .wantY 0xFFFF 0 0 4 with mis := true }) =
    some ⟨0, 0, 0, .seekStart, 0, false, false, false, false, 4⟩ := by decide

/-- CMD6. -/
theorem test_reset_after_a_scan : registers (exec .reset finished) =
    some ⟨0, 0, 0, .seekStart, 0, false, false, false, false, 4⟩ := by decide

/-- CMD3. -/
theorem test_start_after_a_scan : registers (exec .start finished) =
    some ⟨0, 0, 0, .seekStart, 0, true, false, false, false, 4⟩ := by decide

/-- CMD4. -/
theorem test_start_in_a_scan : registers (exec .start { vecOn p1 .wantX 0 0 0 5 with mis := true }) =
    some ⟨0, 0, 0, .seekStart, 0, true, false, false, false, 4⟩ := by decide

/-- CMD5. -/
theorem test_idle_step : registers (step finished) = some ⟨0xFFFF, 0, 0x0040, .wantZ, 4, false, true, true, false, 2⟩ := by decide

/-- The step of P2 at i = 2: reads 20, 21 and 23, Mismatch, DecodeMismatch(2, WantY, (0001,0000)). -/
theorem test_step_of_p2 :
    registers (step (vecOn p2 .wantY 0 0 0 2)) = some ⟨0, 0, 0, .seekStart, 3, true, false, false, true, 4⟩ ∧
    (after (step (vecOn p2 .wantY 0 0 0 2))).map (·.evtLog) = some [⟨2, .wantY, (0x0001, 0x0000)⟩] := by decide

/-- The reference function on P1, P2 and V1. -/
theorem test_reference_function :
    (decodeBlock p1).code = 0 ∧ (decodeBlock p2).code = 2 ∧ (decodeBlock pads).code = 4 ∧ (decodeRun p2).z = 0x1234 := by
  decide

/-! ## The two entry points over table words: P5's words, PAD, and the pins -/

theorem test_table_words_decode :
    ([0xBEEF00C80000000000079F1000014A3B, 0x123400C80000000200079F1000014A3B, 0x567800C80001000200079F1000014A3B,
      0xFFFF00C80002000200079F1000014A3B, 0x00000000000000010000000000000000] : List Nat).map (decodeTableWord 128) =
      [some .bnd, some (.xax 0x1234), some (.yax 0x5678), some (.zax 0xFFFF), some (.oth 0x0001 0x0000 0x0000)] ∧
    ([2, 3, 1, 0] : List Nat).map (decodeTableWord 8) = [some .reset, some .reset, some .start, none] := by decide

theorem test_table_words_run_first_after_reset :
    registers (step (State.reset.withFetchWord 128 0xBEEF00C80000000000079F1000014A3B)) =
      some ⟨0, 0, 0, .wantX, 1, true, false, false, false, 4⟩ ∧
    registers (step (State.reset.withFetchWord 128 0x00000000000000010000000000000000)) =
      some ⟨0, 0, 0, .seekStart, 1, true, false, false, false, 4⟩ ∧
    registers (step (State.reset.withFetchWord 8 2)) = some ⟨0, 0, 0, .seekStart, 0, false, false, false, false, 4⟩ := by
  decide

theorem test_start_word_runs_first_after_reset :
    registers (step (State.reset.withFetchWord 8 1)) = some ⟨0, 0, 0, .seekStart, 0, true, false, false, false, 4⟩ := by decide

/-! ## Witnesses: states and operands that meet the hypotheses of each statement, clause by clause -/

theorem next_with (o : Host.Outcome State Fault Refusal) (P : State → Bool) (h : (after o).any P = true) :
    ∃ t, o = .next t ∧ P t = true := by
  cases o with
  | next t => exact ⟨t, rfl, h⟩
  | fault f => cases h
  | refused f => cases h

theorem next_exists (o : Host.Outcome State Fault Refusal) (h : (after o).isSome = true) : ∃ t, o = .next t := by
  cases o with
  | next t => exact ⟨t, rfl⟩
  | fault f => cases h
  | refused f => cases h

/-- A state of a running scan of `p1` that is legal: IDX sub-records are behind it. -/
theorem inv_vecOn_p1_start : (vecOn p1 .seekStart 0 0 0 0).Inv :=
  ⟨by constructor <;> decide, by constructor <;> decide⟩

/-- Before the seventh sub-record of `p2`, as the trace of P2 has it. -/
theorem inv_vecOn_p2_last : (vecOn p2 .wantZ 0xFFFF 0 0 6).Inv :=
  ⟨by constructor <;> decide, by constructor <;> decide⟩

/-- Before the completing sub-record of `p1`, as the trace of P1 has it. -/
theorem inv_vecOn_p1_completing : (vecOn p1 .wantZ 0xFFFF 0xFFFF 0 3).Inv :=
  ⟨by constructor <;> decide, by constructor <;> decide⟩

/-- RESET from a finished scan, with a silent host afterwards. -/
theorem witness_RegistersAfterReset : ∃ t, exec .reset finished = .next t ∧ hostSilent t := ⟨_, rfl, rfl⟩

theorem witness_ResetClearsEveryRegister :
    (∃ (s : State) (rest : List HostMove), s.inputs = .pins true false :: rest ∧ s.run = true) ∧ ∃ (s : State) (rest : List HostMove), s.inputs = .pins true true :: rest ∧ s.run = true :=
  ⟨⟨{ vec .wantY 0 0 0 2 with inputs := [.pins true false] }, [], rfl, rfl⟩,
   ⟨{ vec .wantY 0 0 0 2 with inputs := [.pins true true] }, [], rfl, rfl⟩⟩

theorem witness_StartBeginsAFreshScan :
    (∀ a, a < 56 → ∃ v, (vecOn p1 .wantX 0 0 0 1).blk.read a = some v) ∧
    (∃ a, a < 56 ∧ (State.reset.blk.read a = none)) ∧
    (55 < 56 ∧ Memory.read (Memory.ofBlock p1 |>.take 55) 55 = none) :=
  ⟨fun _ ha => (Memory.loaded_iff _).1 (by decide) _ ha, ⟨0, by decide, rfl⟩, by decide⟩

theorem witness_StartForgetsEarlierScans :
    ∃ s s' : State, s.blk = s'.blk ∧ s.inputs = s'.inputs ∧ s.evtLog = s'.evtLog ∧ s ≠ s' ∧ s.blk.loaded = true :=
  ⟨finished, vecOn p1 .wantY 0x1234 0 0 2, rfl, rfl, rfl, by decide, by decide⟩

theorem witness_CommandsLeaveBlkAlone :
    (∃ t, exec .reset finished = .next t) ∧ ∃ t, exec .start finished = .next t :=
  ⟨⟨_, rfl⟩, next_exists _ (by decide)⟩

theorem witness_StepRunsTheSelectedSubRecord :
    (hostSilent (vecOn p2 .seekStart 0 0 0 0) ∧ (vecOn p2 .seekStart 0 0 0 0).run = true ∧
      Memory.read (Memory.ofBlock p2) 4 = some 0x0000 ∧ Memory.read (Memory.ofBlock p2) 5 = some 0x0000 ∧
      Memory.read (Memory.ofBlock p2) 7 = some 0x0000) ∧
    (hostSilent (vecOn p2 .wantZ 0xFFFF 0 0 6) ∧ (vecOn p2 .wantZ 0xFFFF 0 0 6).run = true ∧
      Memory.read (Memory.ofBlock p2) 52 = some 0x0002 ∧ Memory.read (Memory.ofBlock p2) 53 = some 0x0002 ∧
      Memory.read (Memory.ofBlock p2) 55 = some 0x1234) :=
  ⟨⟨rfl, rfl, by decide⟩, ⟨rfl, rfl, by decide⟩⟩

theorem witness_ResetBeatsStartBeatsScanStep :
    (∃ (s : State) (rest : List HostMove), s.inputs = .pins true true :: rest ∧ s.run = true) ∧ ∃ (s : State) (rest : List HostMove), s.inputs = .pins false true :: rest ∧ s.run = true :=
  ⟨⟨{ vec .wantY 0 0 0 2 with inputs := [.pins true true] }, [], rfl, rfl⟩,
   ⟨{ vec .wantY 0 0 0 2 with inputs := [.pins false true] }, [], rfl, rfl⟩⟩

theorem witness_IdleBlockHoldsItsRegisters :
    (finished.run = false ∧ nextMove finished = .pins false false ∧ finished.inputs = [] ∧ ∃ t, step finished = .next t) ∧
    ∃ s : State, s.run = false ∧ nextMove s = .load 55 0x1234 ∧ ∃ t, step s = .next t :=
  ⟨⟨rfl, rfl, rfl, next_exists _ (by decide)⟩,
   { finished with inputs := [.load 55 0x1234] }, rfl, rfl, next_exists _ (by decide)⟩

/-- Every class that mismatches in each state that is not SeekStart. -/
theorem witness_MismatchActionWrites :
    ([.wantX, .wantY, .wantZ] : List DecState).all (fun st =>
      (([.bnd, .xax, .yax, .zax, .oth] : List SubClass).filter (fun c => c != wantedClass st)).length == 4) = true ∧
    Instr.subClass .bnd = some .bnd ∧ Instr.tag cfg .bnd = some (0x0000, 0x0000) ∧
    Instr.subClass (.oth 0x0001 0 0) = some .oth ∧ Instr.tag cfg (.oth 0x0001 0 0) = some (0x0001, 0) := by decide

theorem witness_SkipActionWritesOnlyTheTail :
    ∃ i c, Instr.subClass i = some c ∧ (vec .seekStart 0 0 0 6).st = .seekStart ∧ c ≠ .bnd :=
  ⟨.zax 0x1234, .zax, by decide⟩

/-- The four values of ST, for the clauses of the five operations. -/
theorem witness_operations : (vec .seekStart 0 0 0 2).st = .seekStart ∧ (vec .wantX 0 0 0 2).st = .wantX ∧
    (vec .wantY 0 0 0 2).st = .wantY ∧ (vec .wantZ 0 0 0 2).st = .wantZ := by decide

/-- The clause of an unrecognised orientation in ZaxOperation. -/
theorem witness_ZaxOperation_unrecognized :
    (vec .wantZ 0x1234 0x5678 0 3).st = .wantZ ∧ classify cfg 0x1234 0x5678 = .indeterminate := by decide

/-- A step of each kind the clauses of SubRecordFrame speak of: a match, a skip, a mismatch, a completion, an end of scan. -/
theorem witness_SubRecordFrame :
    (∃ t, exec .bnd (vec .seekStart 1 2 3 2) = .next t) ∧ (∃ t, exec (.xax 5) (vec .seekStart 1 2 3 2) = .next t) ∧
    (∃ t, exec (.yax 5) (vec .wantX 1 2 3 2) = .next t) ∧ (∃ t, exec (.zax 5) (vec .wantZ 1 2 3 3) = .next t) ∧
    (∃ t, exec (.oth 1 0 5) (vec .wantY 1 2 3 6) = .next t) :=
  ⟨⟨_, rfl⟩, ⟨_, rfl⟩, ⟨_, rfl⟩, ⟨_, rfl⟩, ⟨_, rfl⟩⟩

theorem witness_StRisesByOneStaysOrDrops :
    (∃ t, exec (.yax 5) (vec .wantY 0 0 0 2) = .next t ∧ SubClass.yax = wantedClass .wantY) ∧
    (∃ t, exec (.zax 5) (vec .wantZ 0 0 0 3) = .next t ∧ SubClass.zax = wantedClass .wantZ) ∧
    (∃ t, exec .bnd (vec .wantZ 0 0 0 3) = .next t ∧ SubClass.bnd ≠ wantedClass .wantZ) :=
  ⟨⟨_, rfl, rfl⟩, ⟨_, rfl, rfl⟩, ⟨_, rfl, by decide⟩⟩

theorem witness_EndOfScanGivesIndeterminate :
    (vec .wantY 0 0 0 6).idx = 6 ∧ ¬completes (vec .wantY 0 0 0 6) (.yax 5) ∧ (vec .wantY 0 0 0 6).pkt = false ∧
    Instr.subClass (.yax 5) = some .yax :=
  ⟨rfl, (fun h => by cases h.1), rfl, rfl⟩

/-- Completion at the lowest and at the highest index of a legal state. -/
theorem witness_CompletionEndsTheScanForGood :
    ((vecOn p1 .wantZ 0xFFFF 0xFFFF 0 3).st = .wantZ ∧ (vecOn p1 .wantZ 0xFFFF 0xFFFF 0 3).Inv ∧
      (vecOn p1 .wantZ 0xFFFF 0xFFFF 0 3).run = true) ∧
    ((vecOn p2 .wantZ 0xFFFF 0 0 6).st = .wantZ ∧ (vecOn p2 .wantZ 0xFFFF 0 0 6).Inv ∧
      (vecOn p2 .wantZ 0xFFFF 0 0 6).run = true) :=
  ⟨⟨rfl, inv_vecOn_p1_completing, rfl⟩, ⟨rfl, inv_vecOn_p2_last, rfl⟩⟩

theorem witness_TestOrderDoesNotMatter : List.Pairwise (· ≠ ·) [cfg.tagBnd, cfg.tagX, cfg.tagY, cfg.tagZ] := by decide

/-- A step that delivers a determinate orientation. -/
theorem witness_ClassifierTable : ∃ t, step (vecOn p1 .wantZ 0xFFFF 0xFFFF 0 3) = .next t ∧ (t.result == .normal) = true :=
  next_with _ (fun t => t.result == .normal) (by decide)

/-- Only a state no run reaches holds Inverted. -/
theorem witness_InvertedIsNeverProduced :
    ∃ s t : State, step s = .next t ∧ (t.result == .inverted) = true :=
  ⟨{ finished with result := .inverted }, next_with _ (fun t => t.result == .inverted) (by decide)⟩

theorem witness_CompletingValueReachesOnlyZ_step : (vec .wantZ 0xFFFF 0 0 3).st = .wantZ := rfl

/-- The block clause: `p1` with another value in its completing sub-record. -/
theorem witness_CompletingValueReachesOnlyZ_block :
    State.reset.run = false ∧
    (∀ a, a < 56 → a ≠ 8 * 3 + 7 →
      (blockOf [bndForm, xaxForm 0xFFFF, yaxForm 0xFFFF, zaxForm 0xABCD, padForm, padForm, padForm]).at a = p1.at a) ∧
    (∃ u, afterScanSteps p1 State.reset 3 = .next u ∧ (u.run && u.idx == 3 && u.st == .wantZ) = true) ∧
    blockClass p1 3 = .zax :=
  ⟨rfl, by decide, next_with _ (fun u => u.run && u.idx == 3 && u.st == .wantZ) (by decide), by decide⟩

theorem witness_XYReadOnlyByTheClassifier :
    ∃ s : State, (∃ t, step s = .next t) ∧ ∃ i, scans s i ∧ ∀ j, scans s j → ¬completes s j :=
  ⟨vecOn p2 .wantY 0 0 0 2, next_exists _ (by decide), .oth 0x0001 0 0, ⟨by decide, .oth, rfl⟩,
   fun _ _ h => by cases h.1⟩

/-- A step for each clause: the commands, a boundary, and the three captures. -/
theorem witness_OnlyNamedStepsWriteXYZ :
    (∃ s : State, fetch s = .instr .reset ∧ ∃ t, step s = .next t) ∧
    (∃ s : State, fetch s = .instr .start ∧ ∃ t, step s = .next t) ∧
    (fetch (vecOn p1 .seekStart 1 2 3 0) = .instr .bnd ∧ ∃ t, step (vecOn p1 .seekStart 1 2 3 0) = .next t) ∧
    (fetch (vecOn p1 .wantX 0 0 0 1) = .instr (.xax 0xFFFF) ∧ ∃ t, step (vecOn p1 .wantX 0 0 0 1) = .next t) ∧
    (fetch (vecOn p1 .wantY 0 0 0 2) = .instr (.yax 0xFFFF) ∧ ∃ t, step (vecOn p1 .wantY 0 0 0 2) = .next t) ∧
    (fetch (vecOn p1 .wantZ 0 0 0 3) = .instr (.zax 0x0040) ∧ ∃ t, step (vecOn p1 .wantZ 0 0 0 3) = .next t) :=
  ⟨⟨{ finished with inputs := [.pins true false] }, by decide, next_exists _ (by decide)⟩,
   ⟨{ finished with inputs := [.pins false true] }, by decide, next_exists _ (by decide)⟩,
   ⟨by decide, next_exists _ (by decide)⟩, ⟨by decide, next_exists _ (by decide)⟩,
   ⟨by decide, next_exists _ (by decide)⟩, ⟨by decide, next_exists _ (by decide)⟩⟩

/-- Steps of the kinds the clauses of IdxClearsOrAdvancesByOne, RunDonePktFollowTheirRules and
MisRecordsMismatchesAndNothingReadsIt name: a command (above), a ScanStep at the last index, an idle step. -/
theorem witness_scan_and_idle_steps :
    ((∃ t, step (vecOn p2 .wantZ 0xFFFF 0 0 6) = .next t) ∧ scans (vecOn p2 .wantZ 0xFFFF 0 0 6) (.zax 0x1234) ∧
      completes (vecOn p2 .wantZ 0xFFFF 0 0 6) (.zax 0x1234)) ∧
    ((∃ t, step (vecOn p2 .wantY 0 0 0 2) = .next t) ∧ scans (vecOn p2 .wantY 0 0 0 2) (.oth 0x0001 0 0) ∧
      mismatches (vecOn p2 .wantY 0 0 0 2) (.oth 0x0001 0 0)) ∧
    ((∃ t, step finished = .next t) ∧ fetch finished = .idle) :=
  ⟨⟨next_exists _ (by decide), ⟨by decide, .zax, rfl⟩, rfl, rfl⟩,
   ⟨next_exists _ (by decide), ⟨by decide, .oth, rfl⟩, (by decide), .oth, rfl, by decide⟩,
   next_exists _ (by decide), rfl⟩

theorem witness_OnlyTheHostWritesBlk : (∃ t, step (vecOn p1 .wantX 0 0 0 1) = .next t) ∧
    ∀ a v, nextMove (vecOn p1 .wantX 0 0 0 1) ≠ .load a v :=
  ⟨next_exists _ (by decide), fun _ _ h => by cases h⟩

/-- Two contents of BLK that agree at 52, 53 and 55 and differ elsewhere. -/
theorem witness_ScanStepReadsThreeSamples :
    hostSilent (vecOn p2 .wantZ 0xFFFF 0 0 6) ∧ (vecOn p2 .wantZ 0xFFFF 0 0 6).run = true ∧
    (∀ k, k = 4 ∨ k = 5 ∨ k = 7 → ((Memory.ofBlock p2).write 54 0xBEEF).read (8 * 6 + k) = (Memory.ofBlock p2).read (8 * 6 + k)) ∧
    (∃ t, step (vecOn p2 .wantZ 0xFFFF 0 0 6) = .next t) ∧ (Memory.ofBlock p2).write 54 0xBEEF ≠ Memory.ofBlock p2 :=
  ⟨rfl, rfl, by rintro k (rfl | rfl | rfl) <;> decide, next_exists _ (by decide), by decide⟩

/-- The lowest and the highest address, a write in a scan, and the first address outside BLK. -/
theorem witness_HostWriteStoresOneSample :
    (∃ s : State, nextMove s = .load 0 0x1234 ∧ s.run = false) ∧ (∃ s : State, nextMove s = .load 55 0x1234 ∧ s.run = false) ∧
    (∃ s : State, nextMove s = .load 55 0x1234 ∧ s.run = true) ∧ (∃ s : State, nextMove s = .load 56 0x1234 ∧ s.run = false) :=
  ⟨⟨{ State.reset with inputs := [.load 0 0x1234] }, rfl, rfl⟩, ⟨{ State.reset with inputs := [.load 55 0x1234] }, rfl, rfl⟩,
   ⟨{ vec .wantX 0 0 0 1 with inputs := [.load 55 0x1234] }, rfl, rfl⟩, ⟨{ State.reset with inputs := [.load 56 0x1234] }, rfl, rfl⟩⟩

theorem witness_LoadingOrderDoesNotMatter :
    State.reset.run = false ∧ State.reset.blk.wf = true ∧ (hostLoads p1).reverse.Perm (hostLoads p1) ∧
    finished.run = false ∧ finished.blk.wf = true :=
  ⟨rfl, by decide, List.reverse_perm _, rfl, by decide⟩

/-- One well-formed instruction of each constructor, an OTH with each component of its tag as near to a named tag as can be. -/
theorem witness_DecodeInvertsEncode :
    ([.bnd, .xax 0x1234, .yax 0xFFFF, .zax 0x0000, .oth 0x0000 0x0001 0xFFFF, .oth 0x0002 0x0003 0x0000, .reset, .start] :
      List Instr).all (Instr.wf cfg) = true := by decide

theorem witness_DecoderFollowsTheTable :
    ∃ r ∈ subRecordTable.take 4, r.fits 0xFFFF00C80002000200079F1000014A3B = true :=
  ⟨⟨.zax, 0x00000000000200020000000000000000, 0x00000000FFFFFFFF0000000000000000⟩, by decide, by decide⟩

theorem witness_StepKeepsLegalStates :
    (vecOn p2 .wantZ 0xFFFF 0 0 6).Inv ∧ ∃ t, step (vecOn p2 .wantZ 0xFFFF 0 0 6) = .next t :=
  ⟨inv_vecOn_p2_last, next_exists _ (by decide)⟩

/-- A run from RESET reaches every state of a scan of seven PADs. -/
theorem reachable_runSteps {s t : State} (hs : Reachable s) (n : Nat) (h : runSteps n s = .next t) : Reachable t := by
  induction n generalizing t with
  | zero => cases h; exact hs
  | succ n ih => obtain ⟨u, hu, ht⟩ := runSteps_prefix h; exact .bySteps (ih hu) ht

theorem reachable_started : ∃ t, Reachable t ∧ t.run = true ∧ t.idx = 0 := by
  obtain ⟨m, -, h⟩ := hostCalls_started pads State.reset rfl
  exact ⟨_, reachable_runSteps (.fromReset _) 57 h, rfl, rfl⟩

theorem reachable_last : ∃ t, Reachable t ∧ t.run = true ∧ t.idx = 6 := by
  have h : ((after (runSteps 63 (hostCalls pads State.reset))).map fun t => (t.run, t.idx)) = some (true, 6) := by
    decide
  cases ho : runSteps 63 (hostCalls pads State.reset) with
  | next t =>
    rw [ho] at h
    exact ⟨t, reachable_runSteps (.fromReset _) 63 ho, by simpa [after] using h⟩
  | fault f => rw [ho] at h; cases h
  | refused r => rw [ho] at h; cases h

theorem witness_ReachableStatesKeepTheScanInvariants : ∃ s, Reachable s ∧ s.run = true :=
  reachable_started.imp fun _ h => ⟨h.1, h.2.1⟩

/-- The lowest and the highest index. -/
theorem witness_ScanAddressesLieInBlk :
    (∃ s, Reachable s ∧ s.run = true ∧ s.idx = 0) ∧ ∃ s, Reachable s ∧ s.run = true ∧ s.idx = 6 :=
  ⟨reachable_started, reachable_last⟩

theorem witness_StepKeepsBlkCanonical :
    ∃ s : State, s.blk.wf = true ∧ ∃ t, step s = .next t :=
  ⟨{ State.reset with inputs := [.load 55 0x1234] }, by decide, next_exists _ (by decide)⟩

/-- A scan step, and the one refusal. -/
theorem witness_BlockNeverFaults :
    ((vecOn p2 .wantZ 0xFFFF 0 0 6).Inv ∧ (vecOn p2 .wantZ 0xFFFF 0 0 6).hostObeys) ∧
    ∃ s : State, State.Inv s ∧ s.hostObeys ∧ nextMove s = .pins false true ∧ s.blk.read 55 = none :=
  ⟨⟨inv_vecOn_p2_last, fun _ _ h => by cases h⟩, { State.reset with inputs := [.pins false true] },
   ⟨by constructor <;> decide, by constructor <;> decide⟩, (fun _ _ h => by cases h), rfl, rfl⟩

theorem witness_ResultIsTheClassificationOfXY :
    ∃ s : State, s.Inv ∧ (s.pkt = true → s.result = classify cfg s.x s.y) ∧ ∃ t, step s = .next t ∧ t.pkt = true :=
  ⟨vecOn p1 .wantZ 0xFFFF 0xFFFF 0 3, inv_vecOn_p1_completing, (fun h => by cases h),
   next_with _ (fun t => t.pkt) (by decide)⟩

/-- RUN = 1 (first clause), an incomplete block, an unrecognised orientation, and a determinate result. -/
theorem witness_CauseOutputClauses :
    (State.Inv (vecOn p1 .seekStart 0 0 0 0) ∧ (vecOn p1 .seekStart 0 0 0 0).done = false) ∧
    (∃ s : State, State.Inv s ∧ s.done = true ∧ s.pkt = false) ∧
    (∃ s : State, State.Inv s ∧ s.done = true ∧ s.pkt = true ∧ s.result = .indeterminate) ∧
    (State.Inv finished ∧ finished.result ≠ .indeterminate) :=
  ⟨⟨inv_vecOn_p1_start, rfl⟩,
   ⟨{ State.reset with idx := 7, done := true }, ⟨by constructor <;> decide, by constructor <;> decide⟩, rfl, rfl⟩,
   ⟨{ finished with x := 0x1234, y := 0x5678, result := .indeterminate },
     ⟨by constructor <;> decide, by constructor <;> decide⟩, rfl, rfl, rfl⟩,
   ⟨by constructor <;> decide, by constructor <;> decide⟩, by decide⟩

/-- The hypothesis RUN = 0 of the statements about whole scans, after RESET and after an earlier scan. -/
theorem witness_whole_scans : State.reset.run = false ∧ finished.run = false := by decide

/-- Two blocks with other samples at every unused offset. -/
theorem witness_UnusedSamplesAreDontCare :
    ∃ b b' : RawBlock, b ≠ b' ∧ State.reset.run = false ∧
      (∀ i, i < 7 → b.at (8 * i + 4) = b'.at (8 * i + 4) ∧ b.at (8 * i + 5) = b'.at (8 * i + 5)) ∧
      (∀ i, i < 7 → captured b State.reset i → b.at (8 * i + 7) = b'.at (8 * i + 7)) := by
  refine ⟨pads, blockOf (List.replicate 7 { padForm with s0 := 0x4A3B, s3 := 0x0007, s6 := 0x00C8 }), by decide, rfl, ?_, ?_⟩
  · intro i hi
    interval_cases i <;> decide
  · intro i hi _
    interval_cases i <;> decide

theorem witness_NoBoundaryGivesIndeterminate : ∀ i, i < 7 → blockClass pads i ≠ .bnd := by
  intro i hi
  interval_cases i <;> decide

/-- The first and the last index of a running scan. -/
theorem witness_RunningScanEnds :
    ((vecOn p1 .seekStart 0 0 0 0).Inv ∧ (vecOn p1 .seekStart 0 0 0 0).run = true ∧ (vecOn p1 .seekStart 0 0 0 0).inputs = []) ∧
    ((vecOn p2 .wantZ 0xFFFF 0 0 6).Inv ∧ (vecOn p2 .wantZ 0xFFFF 0 0 6).run = true ∧ (vecOn p2 .wantZ 0xFFFF 0 0 6).inputs = []) :=
  ⟨⟨inv_vecOn_p1_start, rfl, rfl⟩, ⟨inv_vecOn_p2_last, rfl, rfl⟩⟩

theorem witness_MonitorJudgesOneOrientation :
    Orientation.left ≠ .indeterminate ∧ Monitor.initial.lastApplied ≠ some .left ∧
    (Monitor.judge .left Monitor.initial).lastApplied = some .left := by decide

theorem witness_ShortReadEndsTheHost :
    (List.replicate 55 (0x0000 : Sample)).length < 56 ∧ ([] : List Sample).length < 56 ∧ Monitor.initial.terminated = false := by
  decide

theorem witness_MonitorIterationDecodesTheBlock : Monitor.initial.terminated = false ∧ State.reset.run = false := by decide

theorem witness_WrongByteOrderLosesEveryAxisTag :
    ByteOrder.little ≠ .big ∧ classOf cfg (sampleOfBytes .little 0x02 0x00, sampleOfBytes .little 0x01 0x00) = .yax ∧
    classOf cfg (sampleOfBytes .big 0x00 0x02, sampleOfBytes .big 0x00 0x00) = .xax := by decide

end Sys2Proof.Tests
end

/-! What a step does by what its fetch finds, and the statements about the registers and the legal states (10_state.md). -/

namespace Sys2Proof.Machine
open Sys2Proof.Claims

/-! ## What one sub-record instruction does -/

/-- The six ways a sub-record instruction can go, each with its next state (41_subrecord_ops.md section 3, laws 1 and 2). -/
inductive ScanEffect (s : State) : Instr → State → Prop where
  /-- Any class but BND in SeekStart (R76). -/
  | skip {i : Instr} {c : SubClass} (hc : i.subClass = some c) (hn : c ≠ .bnd) (hs : s.st = .seekStart) :
      ScanEffect s i (scanTail s)
  /-- BND in SeekStart (R70). -/
  | boundary (hs : s.st = .seekStart) : ScanEffect s .bnd (scanTail (setSt .wantX (clearXYZ s)))
  /-- XAX in WantX (R71). -/
  | captureX {v : Sample} (hs : s.st = .wantX) : ScanEffect s (.xax v) (scanTail (setSt .wantY (setX v s)))
  /-- YAX in WantY (R72). -/
  | captureY {v : Sample} (hs : s.st = .wantY) : ScanEffect s (.yax v) (scanTail (setSt .wantZ (setY v s)))
  /-- ZAX in WantZ (R73). -/
  | completion {v : Sample} (hs : s.st = .wantZ) : ScanEffect s (.zax v) (complete v s)
  /-- Any other class than the wanted one (R75). -/
  | mismatch {i : Instr} {c : SubClass} {g : Tag} (hc : i.subClass = some c) (hw : c ≠ wantedClass s.st)
      (hs : s.st ≠ .seekStart) (hg : i.tag cfg = some g) : ScanEffect s i (scanTail (mismatch g s))

/-- A sub-record instruction goes one of the six ways. -/
theorem scanEffect_of_exec {i : Instr} {c : SubClass} {s t : State} (hc : i.subClass = some c)
    (h : exec i s = .next t) : ScanEffect s i t := by
  rcases exec_subRecord_cases hc s with ⟨hs, hn, e⟩ | ⟨hs, rfl, e⟩ | ⟨v, hs, rfl, e⟩ | ⟨v, hs, rfl, e⟩ |
    ⟨v, hs, rfl, e⟩ | ⟨g, hs, hw, hg, e⟩ <;> cases e.symm.trans h
  · exact .skip hc hn hs
  · exact .boundary hs
  · exact .captureX hs
  · exact .captureY hs
  · exact .completion hs
  · exact .mismatch hc hw hs hg

namespace ScanEffect

variable {s t : State} {i : Instr}

/-- Each of the six ways is what `exec` answers. -/
theorem exec_eq (h : ScanEffect s i t) : exec i s = .next t := by
  cases h with
  | skip hc hn hs =>
    have hb : i ≠ .bnd := by rintro rfl; exact hn (Option.some.inj hc).symm
    simpa [hs, hn, hb] using exec_subRecord_cases hc s
  | boundary hs => simp [exec, execBnd, hs]
  | captureX hs => simp [exec, execXax, hs]
  | captureY hs => simp [exec, execYax, hs]
  | completion hs => simp [exec, execZax, hs]
  | mismatch hc hw hs hg =>
    rcases exec_subRecord_cases hc s with ⟨h, -⟩ | ⟨h, -⟩ | ⟨v, h, rfl, -⟩ | ⟨v, h, rfl, -⟩ | ⟨v, h, rfl, -⟩ |
      ⟨g, -, -, hg', e⟩
    · exact absurd h hs
    · exact absurd h hs
    · cases hc; simp [h, wantedClass] at hw
    · cases hc; simp [h, wantedClass] at hw
    · cases hc; simp [h, wantedClass] at hw
    · cases hg.symm.trans hg'; exact e

/-- A sub-record either completes a packet or leaves IDX, RUN, DONE and PKT to the tail. -/
theorem completes_or_tail (h : ScanEffect s i t) :
    (completes s i ∧ ∃ v, t = complete v s) ∨
    (¬completes s i ∧ ∃ r : State, t = scanTail r ∧ r.idx = s.idx ∧ r.run = s.run ∧ r.done = s.done ∧ r.pkt = s.pkt) := by
  cases h with
  | skip hc hn hs => exact .inr ⟨by simp [completes, hs], _, rfl, rfl, rfl, rfl, rfl⟩
  | boundary hs => exact .inr ⟨by simp [completes, hs], _, rfl, rfl, rfl, rfl, rfl⟩
  | captureX hs => exact .inr ⟨by simp [completes, hs], _, rfl, rfl, rfl, rfl, rfl⟩
  | captureY hs => exact .inr ⟨by simp [completes, hs], _, rfl, rfl, rfl, rfl, rfl⟩
  | completion hs => exact .inl ⟨⟨hs, rfl⟩, _, rfl⟩
  | mismatch hc hw hs hg =>
    refine .inr ⟨?_, _, rfl, rfl, rfl, rfl, rfl⟩
    rintro ⟨hz, hzax⟩
    exact hw (by rw [hz]; exact Option.some.inj (hc.symm.trans hzax))

/-- IDX advances, in every class and state (10_state.md R14). -/
theorem idx_eq (h : ScanEffect s i t) : t.idx = s.idx + 1 := by
  rcases h.completes_or_tail with ⟨-, v, rfl⟩ | ⟨-, r, rfl, hidx, -⟩
  · rfl
  · rw [scanTail_idx, hidx]

/-- No sub-record writes BLK (20_memory.md R36). -/
theorem blk_eq (h : ScanEffect s i t) : t.blk = s.blk := by
  cases h <;> simp

/-- Only a mismatch touches MIS and the trace, and it adds its one event (60_exceptions.md R91). -/
theorem mismatches_or_quiet (h : ScanEffect s i t) :
    (mismatches s i ∧ ∃ g, i.tag cfg = some g ∧ t.mis = true ∧ t.evtLog = s.evtLog ++ [⟨s.idx, s.st, g⟩]) ∨
    (¬mismatches s i ∧ t.mis = s.mis ∧ t.evtLog = s.evtLog) := by
  cases h with
  | skip hc hn hs => exact .inr ⟨fun h => h.1 hs, by simp, by simp⟩
  | boundary hs => exact .inr ⟨fun h => h.1 hs, by simp, by simp⟩
  | captureX hs => exact .inr ⟨by simp [mismatches, hs, Instr.subClass, wantedClass], by simp, by simp⟩
  | captureY hs => exact .inr ⟨by simp [mismatches, hs, Instr.subClass, wantedClass], by simp, by simp⟩
  | completion hs => exact .inr ⟨by simp [mismatches, hs, Instr.subClass, wantedClass], by simp, by simp⟩
  | mismatch hc hw hs hg => exact .inl ⟨⟨hs, _, hc, hw⟩, _, hg, by simp, by simp⟩

/-- What writes X, Y and Z: BND in SeekStart and each register's own capture (10_state.md R11). -/
theorem xyz_writers (h : ScanEffect s i t) :
    (t.x ≠ s.x → (i = .bnd ∧ s.st = .seekStart) ∨ ∃ v, i = .xax v ∧ s.st = .wantX) ∧
    (t.y ≠ s.y → (i = .bnd ∧ s.st = .seekStart) ∨ ∃ v, i = .yax v ∧ s.st = .wantY) ∧
    (t.z ≠ s.z → (i = .bnd ∧ s.st = .seekStart) ∨ ∃ v, i = .zax v ∧ s.st = .wantZ) := by
  cases h with
  | skip hc hn hs => simp
  | boundary hs => simp [hs]
  | captureX hs => simp [hs]
  | captureY hs => simp [hs]
  | completion hs => simp [hs]
  | mismatch hc hw hs hg => simp

end ScanEffect

/-! ## What a step does, by what the fetch finds -/

/-- A ScanStep needs RUN = 1 and an IDX that selects a sub-record (40_scan_control.md R62). -/
theorem scans_running {s t : State} {i : Instr} (hs : scans s i) (h : step s = .next t) :
    s.run = true ∧ s.idx.toNat ≤ 6 := by
  obtain ⟨hf, c, hc⟩ := hs
  rcases step_cases h with ⟨hm, hr, -⟩ | ⟨a, v, hm, -⟩ | ⟨b, hm, -⟩ | ⟨hm, -⟩ | ⟨j, d, -, hr, hsub, -⟩
  · cases (fetch_of_idle hm hr).symm.trans hf
  · cases (fetch_of_load hm).symm.trans hf
  · cases (fetch_of_rst hm).symm.trans hf; cases hc
  · cases (fetch_of_start hm).symm.trans hf; cases hc
  · exact ⟨hr, Nat.le_of_lt_succ (fetchSubRecord_ok hsub).1⟩

/-- Everything a step with a next state can be, by what the fetch finds. -/
inductive StepKind (s : State) : State → Prop where
  | idle (hf : fetch s = .idle) : StepKind s (dropMove s)
  | write {a : Nat} {v : Sample} (hf : fetch s = .write a v) (hr : s.run = false) (ha : a < cfg.blockLen) :
      StepKind s { dropMove s with blk := s.blk.write a v }
  | reset (hf : fetch s = .instr .reset) : StepKind s { initRegisters (dropMove s) with run := false }
  | start (hf : fetch s = .instr .start) (hl : s.blk.loaded = true) :
      StepKind s { initRegisters (dropMove s) with run := true }
  | scan {i : Instr} {t : State} (hs : scans s i) (he : ScanEffect (dropMove s) i t) : StepKind s t

theorem stepKind_of_step {s t : State} (h : step s = .next t) : StepKind s t := by
  rcases step_cases h with ⟨hm, hr, rfl⟩ | ⟨a, v, hm, hr, ha, rfl⟩ | ⟨b, hm, rfl⟩ | ⟨hm, hl, rfl⟩ |
    ⟨i, c, hm, hr, hf, hc, he⟩
  · exact .idle (fetch_of_idle hm hr)
  · exact .write (fetch_of_load hm) hr ha
  · exact .reset (fetch_of_rst hm)
  · exact .start (fetch_of_start hm) hl
  · exact .scan ⟨fetch_of_scan hm hr hf, c, hc⟩ (scanEffect_of_exec hc he)

/-- With RUN = 0 a host write inside BLK goes through (70_reset_and_hazards.md R113). -/
theorem hostLoad_eq {s : State} {a : Nat} {v : Sample} (hr : s.run = false) (ha : a < cfg.blockLen) :
    hostLoad a v s = .next { s with blk := s.blk.write a v } := by
  simp only [hostLoad, hr, if_pos ha, Bool.false_eq_true, if_false]

theorem step_of_fetch_instr {s : State} {i : Instr} (hf : fetch s = .instr i) : step s = exec i (dropMove s) := by
  rw [step, hf]

/-- The next state of a fetched sub-record. -/
theorem ScanEffect.step_eq {s t : State} {i : Instr} (he : ScanEffect (dropMove s) i t) (hf : fetch s = .instr i) :
    step s = .next t := (step_of_fetch_instr hf).trans he.exec_eq

/-- RESET and START give the same registers but RUN (40_scan_control.md R60, R61). -/
theorem step_command {s t : State} (hf : fetch s = .instr .reset ∨ fetch s = .instr .start)
    (h : step s = .next t) :
    ∃ b, t = { initRegisters (dropMove s) with run := b } := by
  rcases hf with hf | hf <;> rw [step_of_fetch_instr hf] at h
  · exact ⟨false, execReset_next h⟩
  · exact ⟨true, (execStart_next h).2⟩

/-- A ScanStep does to the state without its host move what the sub-record does. -/
theorem step_scan {s t : State} {i : Instr} (hs : scans s i) (h : step s = .next t) : ScanEffect (dropMove s) i t := by
  obtain ⟨hf, c, hc⟩ := hs
  rw [step_of_fetch_instr hf] at h
  exact scanEffect_of_exec hc h

/-- A step that runs no instruction changes at most BLK and takes the host's move (R65, 70_reset_and_hazards.md R113). -/
theorem step_no_instr {s t : State} (hf : ∀ i, fetch s ≠ .instr i) (h : step s = .next t) :
    t = { dropMove s with blk := t.blk } := by
  cases stepKind_of_step h with
  | idle => rfl
  | write => rfl
  | reset hf' => exact absurd hf' (hf _)
  | start hf' => exact absurd hf' (hf _)
  | scan hs => exact absurd hs.1 (hf _)

/-! ## Legal states (10_state.md R25) -/

/-- The clauses of R25 speak of the ten registers only. -/
theorem State.ScanInv.of_sameRegisters {s t : State} (h : SameRegisters s t) (hs : s.ScanInv) : t.ScanInv := by
  obtain ⟨hx, hy, hz, hst, hidx, hrun, hdone, hpkt, -, hres⟩ := h
  constructor <;> simp only [hx, hy, hz, hst, hidx, hrun, hdone, hpkt, hres]
  exacts [hs.notBoth, hs.running, hs.packet, hs.incomplete, hs.notInverted, hs.determinate, hs.heldX, hs.heldY,
    hs.heldZ, hs.matched]

/-- RESET and START leave a legal state, whatever the registers held. -/
theorem scanInv_initRegisters (s : State) (b : Bool) : State.ScanInv { initRegisters s with run := b } := by
  constructor <;> simp [DecState.code]

/-- A scan between the writes of its sub-record and the tail: no packet yet, registers not yet captured are 0, and ST
counts at most the sub-records examined, this one included. -/
structure MidScan (r : State) : Prop where
  run : r.run = true
  done : r.done = false
  pkt : r.pkt = false
  result : r.result = .indeterminate
  index : r.idx.toNat ≤ 6
  heldX : r.st = .wantX → r.x = 0 ∧ r.y = 0 ∧ r.z = 0
  heldY : r.st = .wantY → r.y = 0 ∧ r.z = 0
  heldZ : r.st = .wantZ → r.z = 0
  matched : r.st.code.toNat ≤ r.idx.toNat + 1

/-- IDX does not wrap where it selects a sub-record. -/
theorem toNat_idx_succ {i : BitVec 3} (h : i.toNat ≤ 6) : (i + 1).toNat = i.toNat + 1 := by
  bv_omega

/-- The tail makes a legal state of a scan under way, whether the scan ends or goes on. -/
theorem MidScan.scanInv_scanTail {r : State} (h : MidScan r) : (scanTail r).ScanInv := by
  obtain ⟨hrun, hdone, hpkt, hres, hidx, hX, hY, hZ, hm⟩ := h
  have hnext := toNat_idx_succ hidx
  have hlast := idx_last_iff r.idx
  rw [cfg_nsub] at hlast
  by_cases h6 : r.idx = 6
  · have hend := hlast.2 h6
    constructor <;> simp_all [-BitVec.toNat_add]
  · have hgoes : r.idx.toNat + 1 ≠ 7 := mt hlast.1 h6
    constructor <;> simp_all [-BitVec.toNat_add]
    omega

/-- A legal state with RUN = 1, as a scan whose sub-record has written nothing yet. -/
theorem midScan_of_scanInv {s : State} (h : s.ScanInv) (hr : s.run = true) : MidScan s := by
  obtain ⟨hidx, hpkt, hres⟩ := h.running hr
  exact ⟨hr, by simpa [hr] using h.notBoth, hpkt, hres, hidx, h.heldX hr, h.heldY hr, h.heldZ hr, Nat.le_succ_of_le (h.matched hr)⟩

/-- The classifier never answers Inverted (42_classify.md R84). -/
theorem classify_ne_inverted (x y : Sample) : classify cfg x y ≠ .inverted := by
  rw [classify_cfg]
  split_ifs <;> decide

/-- A sub-record run in a legal state with RUN = 1 leaves a legal state. -/
theorem ScanEffect.keeps_scanInv {s t : State} {i : Instr} (he : ScanEffect s i t) (h : s.ScanInv)
    (hr : s.run = true) : t.ScanInv := by
  have hmatched := h.matched hr
  obtain ⟨hrun, hdone, hpkt, hres, hidx, hX, hY, hZ, hm⟩ := midScan_of_scanInv h hr
  cases he with
  | skip hc hn hs => exact (midScan_of_scanInv h hr).scanInv_scanTail
  | boundary hs => exact MidScan.scanInv_scanTail (by constructor <;> simp [*, DecState.code])
  | captureX hs =>
    rw [hs] at hmatched
    exact MidScan.scanInv_scanTail (by constructor <;> simp_all [DecState.code])
  | captureY hs =>
    rw [hs] at hmatched
    exact MidScan.scanInv_scanTail (by constructor <;> simp_all [DecState.code])
  | completion hs =>
    rw [hs] at hmatched
    have hnext := toNat_idx_succ hidx
    have hclass := classify_ne_inverted s.x s.y
    constructor <;> simp_all [DecState.code, -BitVec.toNat_add]
  | mismatch hc hw hs hg => exact MidScan.scanInv_scanTail (by constructor <;> simp [*, DecState.code])

/-- From a legal state every step with a next state keeps the clauses of R25. -/
theorem step_keeps_scanInv {s t : State} (hs : s.ScanInv) (h : step s = .next t) : t.ScanInv := by
  cases stepKind_of_step h with
  | idle => exact hs.of_sameRegisters (by constructor <;> rfl)
  | write => exact hs.of_sameRegisters (by constructor <;> rfl)
  | reset => exact scanInv_initRegisters _ _
  | start => exact scanInv_initRegisters _ _
  | scan hi he =>
    have hd : (dropMove s).ScanInv := hs.of_sameRegisters (by constructor <;> rfl)
    exact he.keeps_scanInv hd (scans_running hi h).1

/-- Every step keeps BLK canonical, and loaded while a scan runs. -/
theorem step_keeps_blkInv {s t : State} (hs : s.BlkInv) (h : step s = .next t) : t.BlkInv := by
  obtain ⟨hwf, hloaded⟩ := hs
  cases stepKind_of_step h with
  | idle => exact ⟨hwf, hloaded⟩
  | write hf hr ha => exact ⟨Memory.wf_write _ _ _ hwf ha, fun hrun => absurd (hr.symm.trans hrun) (by decide)⟩
  | reset => exact ⟨hwf, fun hrun => by cases hrun⟩
  | start hf hl => exact ⟨hwf, fun _ => hl⟩
  | scan hi he =>
    have hblk : t.blk = s.blk := he.blk_eq
    exact ⟨hblk ▸ hwf, fun _ => hblk ▸ hloaded (scans_running hi h).1⟩

/-- Settles O40: the clauses of R25 and those of BLK, each kept by every step. -/
theorem stepKeepsLegalStates : Obligations.StepKeepsLegalStates :=
  fun _ _ hs h => ⟨step_keeps_scanInv hs.scan h, step_keeps_blkInv hs.blk h⟩

/-- Settles O41, by induction on the run from RESET, whose state has the registers `initRegisters` gives. -/
theorem reachableStatesKeepTheScanInvariants : Obligations.ReachableStatesKeepTheScanInvariants := by
  intro s hs
  induction hs with
  | fromReset moves => exact scanInv_initRegisters { State.reset with inputs := moves } false
  | bySteps before h ih => exact step_keeps_scanInv ih h

/-! ## X, Y, Z and MIS are read by nothing but the completing step (10_state.md R12, R20) -/

/-- A state with other values in X, Y, Z and MIS. -/
def withXYZMis (x y z : Sample) (m : Bool) (s : State) : State := { s with x := x, y := y, z := z, mis := m }

theorem scanTail_withXYZMis (x y z : Sample) (m : Bool) (s : State) :
    scanTail (withXYZMis x y z m s) = withXYZMis x y z m (scanTail s) := by
  simp only [scanTail_eq]; rfl

/-- What a sub-record leaves in X, Y, Z or MIS depends on that register alone, and all else on none of the four: only a
completing step reads X and Y beyond that. -/
theorem ScanEffect.withXYZMis {s t : State} {i : Instr} (h : ScanEffect s i t) :
    ∃ (fx fy fz : Sample → Sample) (fm : Bool → Bool), ∀ x y z m, (completes s i → x = s.x ∧ y = s.y) →
      ScanEffect (withXYZMis x y z m s) i (withXYZMis (fx x) (fy y) (fz z) (fm m) t) := by
  cases h with
  | skip hc hn hs =>
    exact ⟨id, id, id, id, fun x y z m _ => by rw [← scanTail_withXYZMis]; exact .skip hc hn hs⟩
  | boundary hs =>
    exact ⟨fun _ => 0, fun _ => 0, fun _ => 0, id, fun x y z m _ => by
      rw [← scanTail_withXYZMis]; exact .boundary hs⟩
  | @captureX v hs =>
    exact ⟨fun _ => v, id, id, id, fun x y z m _ => by rw [← scanTail_withXYZMis]; exact .captureX hs⟩
  | @captureY v hs =>
    exact ⟨id, fun _ => v, id, id, fun x y z m _ => by rw [← scanTail_withXYZMis]; exact .captureY hs⟩
  | @completion v hs =>
    refine ⟨id, id, fun _ => v, id, fun x y z m hxy => ?_⟩
    obtain ⟨rfl, rfl⟩ := hxy ⟨hs, rfl⟩
    exact .completion hs
  | mismatch hc hw hs hg =>
    exact ⟨id, id, id, fun _ => true, fun x y z m _ => by
      rw [← scanTail_withXYZMis]; exact .mismatch hc hw hs hg⟩

/-- The fetch reads none of the four. -/
theorem fetch_withXYZMis (x y z : Sample) (m : Bool) (s : State) : fetch (withXYZMis x y z m s) = fetch s :=
  fetch_congr rfl rfl rfl rfl

/-- What a step leaves in X, Y, Z or MIS depends on that register alone, and all else on none of the four; a step that
completes a packet is left out as to X and Y. -/
theorem step_withXYZMis {s t : State} (h : step s = .next t) :
    ∃ (fx fy fz : Sample → Sample) (fm : Bool → Bool), ∀ x y z m,
      ((∃ i, scans s i ∧ completes s i) → x = s.x ∧ y = s.y) →
      step (withXYZMis x y z m s) = .next (withXYZMis (fx x) (fy y) (fz z) (fm m) t) := by
  cases stepKind_of_step h with
  | idle hf => exact ⟨id, id, id, id, fun x y z m _ => by rw [step, fetch_withXYZMis, hf]; rfl⟩
  | write hf hr ha =>
    exact ⟨id, id, id, id, fun x y z m _ => by
      rw [step, fetch_withXYZMis, hf]; exact hostLoad_eq hr ha⟩
  | reset hf =>
    exact ⟨fun _ => 0, fun _ => 0, fun _ => 0, fun _ => false, fun x y z m _ => by
      rw [step, fetch_withXYZMis, hf]; rfl⟩
  | start hf hl =>
    exact ⟨fun _ => 0, fun _ => 0, fun _ => 0, fun _ => false, fun x y z m _ => by
      rw [step, fetch_withXYZMis, hf]; exact if_pos hl⟩
  | @scan i _ hs he =>
    obtain ⟨fx, fy, fz, fm, heffect⟩ := he.withXYZMis
    refine ⟨fx, fy, fz, fm, fun x y z m hxy => ?_⟩
    exact ScanEffect.step_eq (s := withXYZMis x y z m s) (heffect x y z m fun hc => hxy ⟨i, hs, hc⟩)
      ((fetch_withXYZMis x y z m s).trans hs.1)

/-- `step_withXYZMis` with the step from `s` itself as the case in which no register is replaced. -/
theorem step_withXYZMis_spec {s t : State} (h : step s = .next t) :
    ∃ (fx fy fz : Sample → Sample) (fm : Bool → Bool), (fx s.x = t.x ∧ fy s.y = t.y ∧ fz s.z = t.z ∧ fm s.mis = t.mis) ∧
      ∀ x y z m, ((∃ i, scans s i ∧ completes s i) → x = s.x ∧ y = s.y) →
        step (withXYZMis x y z m s) = .next (withXYZMis (fx x) (fy y) (fz z) (fm m) t) := by
  obtain ⟨fx, fy, fz, fm, hstep⟩ := step_withXYZMis h
  have ht : t = withXYZMis (fx s.x) (fy s.y) (fz s.z) (fm s.mis) t :=
    Host.Outcome.next.inj (h.symm.trans (hstep s.x s.y s.z s.mis fun _ => ⟨rfl, rfl⟩))
  refine ⟨fx, fy, fz, fm, ⟨?_, ?_, ?_, ?_⟩, hstep⟩ <;> rw [ht] <;> rfl

/-- Settles O25: Z is replaced in every step, X and Y in those that complete no packet. -/
theorem xYReadOnlyByTheClassifier : Obligations.XYReadOnlyByTheClassifier := by
  refine ⟨fun s t z' h => ?_, fun s t x' y' h hn => ?_, fun s => ⟨rfl, rfl, rfl⟩⟩
  · obtain ⟨fx, fy, fz, fm, ⟨hx, hy, -, hm⟩, hstep⟩ := step_withXYZMis_spec h
    refine ⟨fz z', (hstep s.x s.y z' s.mis fun _ => ⟨rfl, rfl⟩).trans ?_⟩
    rw [hx, hy, hm]; rfl
  · obtain ⟨fx, fy, fz, fm, ⟨-, -, hz, hm⟩, hstep⟩ := step_withXYZMis_spec h
    refine ⟨fx x', fy y', (hstep x' y' s.z s.mis fun ⟨i, hs, hc⟩ => absurd hc (hn i hs)).trans ?_⟩
    rw [hz, hm]; rfl

/-! ## What each register follows -/

/-- Settles O26: each writer by its own step, and that there is no other by the cases of a step. -/
theorem onlyNamedStepsWriteXYZ : Obligations.OnlyNamedStepsWriteXYZ := by
  intro s t h
  refine ⟨fun hf => ?_, fun hf hs => ?_, fun v hf hs => ?_, fun v hf hs => ?_, fun v hf hs => ?_, ?_⟩
  · obtain ⟨b, rfl⟩ := step_command hf h
    exact ⟨rfl, rfl, rfl⟩
  · cases h.symm.trans ((ScanEffect.boundary (s := dropMove s) hs).step_eq hf)
    simp
  · cases h.symm.trans ((ScanEffect.captureX (s := dropMove s) hs).step_eq hf)
    simp
  · cases h.symm.trans ((ScanEffect.captureY (s := dropMove s) hs).step_eq hf)
    simp
  · cases h.symm.trans ((ScanEffect.completion (s := dropMove s) hs).step_eq hf)
    simp
  · cases stepKind_of_step h with
    | idle => simp
    | write => simp
    | reset hf => simp [hf]
    | start hf => simp [hf]
    | scan hs he =>
      obtain ⟨hx, hy, hz⟩ := he.xyz_writers
      simp only [hs.1, Fetched.instr.injEq]
      exact ⟨fun h => .inr (.inr (hx h)), fun h => .inr (.inr (hy h)), fun h => .inr (.inr (hz h))⟩

/-- Settles O27: a ScanStep finds IDX at most 6, so that adding one does not wrap. -/
theorem idxClearsOrAdvancesByOne : Obligations.IdxClearsOrAdvancesByOne := by
  intro s t h
  refine ⟨fun hf => ?_, fun i hs => ?_, fun hf => ?_⟩
  · obtain ⟨b, rfl⟩ := step_command hf h
    rfl
  · rw [(step_scan hs h).idx_eq]
    exact toNat_idx_succ (scans_running hs h).2
  · rw [step_no_instr hf h]
    rfl

/-- Settles O28: a ScanStep completes a packet or leaves the three flags to the tail. -/
theorem runDonePktFollowTheirRules : Obligations.RunDonePktFollowTheirRules := by
  intro s t h
  refine ⟨fun hf => ?_, fun hf => ?_, fun i hs => ?_, fun hf => ?_⟩
  · rw [step_of_fetch_instr hf] at h
    obtain ⟨-, rfl⟩ := execStart_next h
    exact ⟨rfl, rfl, rfl⟩
  · rw [step_of_fetch_instr hf] at h
    obtain rfl := execReset_next h
    exact ⟨rfl, rfl, rfl⟩
  · have hrun := (scans_running hs h).1
    rcases (step_scan hs h).completes_or_tail with ⟨hc, v, rfl⟩ | ⟨hc, r, rfl, hi, hr, hd, hp⟩
    · have hc : completes s i := hc
      simp [hc]
    · have hc : ¬completes s i := hc
      simp [hc, hi, hr, hd, hp, hrun, or_comm]
  · rw [step_no_instr hf h]
    exact ⟨rfl, rfl, rfl⟩

/-- No event where the trace stays as it was, and the one appended where it grows. -/
theorem emitted_of_append {s t : State} {l : List MismatchEvt} (h : t.evtLog = s.evtLog ++ l) : emitted s t = l := by
  rw [emitted, h, List.drop_left]

/-- Settles O29: a sub-record mismatches or is quiet, and MIS is one of the registers a step does not read. -/
theorem misRecordsMismatchesAndNothingReadsIt : Obligations.MisRecordsMismatchesAndNothingReadsIt := by
  refine ⟨fun s t h => ⟨fun hf => ?_, fun i g hs hm hg => ?_, fun hq hn => ?_⟩, fun s t b h => ?_⟩
  · obtain ⟨b, rfl⟩ := step_command hf h
    exact ⟨rfl, emitted_of_append (by simp)⟩
  · rcases (step_scan hs h).mismatches_or_quiet with ⟨-, g', hg', hmis, hlog⟩ | ⟨hnot, -⟩
    · cases hg.symm.trans hg'
      exact ⟨hmis, emitted_of_append hlog⟩
    · exact absurd hm hnot
  · cases stepKind_of_step h with
    | idle => exact ⟨rfl, emitted_of_append (by simp)⟩
    | write => exact ⟨rfl, emitted_of_append (by simp)⟩
    | reset hf => exact absurd rfl (hn _ hf).1
    | start hf => exact absurd rfl (hn _ hf).2
    | scan hs he =>
      rcases he.mismatches_or_quiet with ⟨hm, -⟩ | ⟨-, hmis, hlog⟩
      · exact absurd hm (hq _ hs)
      · exact ⟨hmis, emitted_of_append (by simp [hlog])⟩
  · obtain ⟨fx, fy, fz, fm, ⟨hx, hy, hz, -⟩, hstep⟩ := step_withXYZMis_spec h
    refine ⟨fm b, (hstep s.x s.y s.z b fun _ => ⟨rfl, rfl⟩).trans ?_⟩
    rw [hx, hy, hz]; rfl

/-- Settles O46: a scan that is done without a packet has RESULT Indeterminate, by clause (d) of R25. -/
theorem causeOutputClauses : Obligations.CauseOutputClauses := by
  intro s hs
  refine ⟨fun h => ?_, fun hd hp => ?_, fun hd hp hr => ?_⟩
  · simp [outputs, causeKind, h, ErrorKind.code]
  · have hr := (hs.scan.incomplete hd hp).2
    simp [outputs, causeKind, hd, hp, hr, ErrorKind.code]
  · simp [outputs, causeKind, hd, hp, hr, ErrorKind.code]

/-! ## The commands and the printed words -/

/-- Settles O1: RESET writes every register, and with RUN = 0 and low pins the fetch then finds nothing. -/
theorem registersAfterReset : Obligations.RegistersAfterReset := by
  refine ⟨fun s => ⟨_, rfl, rfl, rfl, rfl, rfl, rfl, rfl, rfl, rfl, rfl, rfl, rfl, fun hsilent => ?_⟩,
    by constructor <;> rfl, rfl⟩
  exact ⟨_, by rw [step, fetch_of_idle hsilent rfl], by constructor <;> rfl⟩

/-- Settles O4: START asks whether BLK is loaded, and clears every register. -/
theorem startForgetsEarlierScans : Obligations.StartForgetsEarlierScans := by
  intro s s' hblk hinputs hlog
  have hinit : { initRegisters s with run := true } = { initRegisters s' with run := true } := by
    cases s; cases s'; cases hblk; cases hinputs; cases hlog; rfl
  simp only [exec, execStart, hblk, hinit]

/-- Settles O38: each word is closed, and the decoder computes. -/
theorem specWordsDecodeAsPrinted : Obligations.SpecWordsDecodeAsPrinted := by
  refine ⟨?_, ?_, ?_, ?_, ?_, ?_, ?_, ?_⟩ <;> decide

end Sys2Proof.Machine

/-! BLK as the block sees it: who writes it, which samples a ScanStep reads, and the bytes behind a sample (20_memory.md). -/

namespace Sys2Proof.Machine
open Sys2Proof.Claims

/-! ## Who writes BLK (20_memory.md R36) -/

/-- Settles O30: among the cases of a step, only the host write stores to BLK. -/
theorem onlyTheHostWritesBlk : Obligations.OnlyTheHostWritesBlk := by
  intro s t h hn
  have hblk : t.blk = s.blk := by
    rcases step_cases h with ⟨-, -, rfl⟩ | ⟨a, v, hm, -⟩ | ⟨b, -, rfl⟩ | ⟨-, -, rfl⟩ | ⟨i, c, -, -, -, hc, he⟩
    · rfl
    · exact absurd hm (hn a v)
    · rfl
    · rfl
    · exact (scanEffect_of_exec hc he).blk_eq
  exact ⟨hblk, fun a => by rw [hblk]⟩

/-! ## What a ScanStep reads of BLK (20_memory.md R32, R35) -/

/-- A state with another BLK. -/
def withBlk (m : Memory) (s : State) : State := { s with blk := m }

theorem scanTail_withBlk (m : Memory) (s : State) : scanTail (withBlk m s) = withBlk m (scanTail s) := by
  simp only [scanTail_eq]; rfl

/-- A sub-record instruction, once fetched, does not look at BLK. -/
theorem ScanEffect.withBlk {s t : State} {i : Instr} (m : Memory) (h : ScanEffect s i t) :
    ScanEffect (withBlk m s) i (withBlk m t) := by
  cases h with
  | skip hc hn hs => rw [← scanTail_withBlk]; exact .skip hc hn hs
  | boundary hs => rw [← scanTail_withBlk]; exact .boundary hs
  | captureX hs => rw [← scanTail_withBlk]; exact .captureX hs
  | captureY hs => rw [← scanTail_withBlk]; exact .captureY hs
  | completion hs => exact .completion hs
  | mismatch hc hw hs hg => rw [← scanTail_withBlk]; exact .mismatch hc hw hs hg

/-- The fetched sub-record depends on no sample but the two of its tag and its value sample. -/
theorem fetchSubRecord_withBlk {s : State} {i : Instr} {m : Memory}
    (hm : ∀ k, k = 4 ∨ k = 5 ∨ k = 7 → m.read (8 * s.idx.toNat + k) = s.blk.read (8 * s.idx.toNat + k))
    (hf : fetchSubRecord s = .ok i) : fetchSubRecord (withBlk m s) = .ok i := by
  obtain ⟨hi, t0, t1, v, h0, h1, hv, rfl⟩ := fetchSubRecord_ok hf
  exact fetchSubRecord_of_read (s := withBlk m s) hi ((hm 4 (by decide)).trans h0) ((hm 5 (by decide)).trans h1)
    ((hm 7 (by decide)).trans hv)

/-- Settles O31: the fetch finds the same sub-record, whose effect does not look at BLK. -/
theorem scanStepReadsThreeSamples : Obligations.ScanStepReadsThreeSamples := by
  intro s t m hsilent hrun hm h
  have hmove : nextMove s = .pins false false := hsilent
  rcases step_cases h with ⟨-, hr, -⟩ | ⟨a, v, hl, -⟩ | ⟨b, hl, -⟩ | ⟨hl, -⟩ | ⟨i, c, -, -, hf, hc, he⟩
  · simp [hrun] at hr
  · simp [hmove] at hl
  · simp [hmove] at hl
  · simp [hmove] at hl
  · have hfetch : fetch (withBlk m s) = .instr i := fetch_of_scan hsilent hrun (fetchSubRecord_withBlk hm hf)
    exact ScanEffect.step_eq (s := withBlk m s) ((scanEffect_of_exec hc he).withBlk m) hfetch

/-! ## The addresses of a scan (20_memory.md R41) -/

/-- Every reachable state is legal. -/
theorem inv_of_reachable {s : State} (h : Reachable s) : s.Inv := by
  induction h with
  | fromReset moves =>
    exact ⟨scanInv_initRegisters { State.reset with inputs := moves } false, Memory.wf_nil, fun hrun => by cases hrun⟩
  | bySteps before h ih => exact stepKeepsLegalStates _ _ ih h

/-- The addresses a ScanStep forms, with the offsets of R6 written out. -/
theorem readAddrs_eq (i : Nat) : readAddrs i = [8 * i + 4, 8 * i + 5, 8 * i + 7] := rfl

/-- The addresses of the seven sub-records lie in 4 to 55. -/
theorem readAddrs_bounds {i a : Nat} (hi : i ≤ 6) (ha : a ∈ readAddrs i) : 4 ≤ a ∧ a ≤ 55 := by
  simp only [readAddrs_eq, List.mem_cons, List.not_mem_nil, or_false] at ha
  omega

/-- Settles O45: in a legal state with RUN = 1, IDX is at most 6 and BLK is loaded. -/
theorem scanAddressesLieInBlk : Obligations.ScanAddressesLieInBlk := by
  intro s hs hrun
  have hinv := inv_of_reachable hs
  have hidx : s.idx.toNat ≤ 6 := (hinv.scan.running hrun).1
  have hread := (Memory.loaded_iff s.blk).1 (hinv.blk.loadedInScan hrun)
  refine ⟨s.idx.toNat, hidx, rfl, readAddrs_eq _, fun a ha => ?_⟩
  obtain ⟨hlo, hhi⟩ := readAddrs_bounds hidx ha
  exact ⟨hlo, hhi, hread a (Nat.lt_succ_of_le hhi), Nat.mod_eq_of_lt (by omega : a < 2 ^ 6)⟩

/-! ## The byte order of a front end (20_memory.md R33) -/

/-- A sample with its two bytes exchanged. -/
def byteSwap (v : Sample) : Sample := v.extractLsb' 0 8 ++ v.extractLsb' 8 8

theorem byteSwap_append (hi lo : BitVec 8) : byteSwap (hi ++ lo) = lo ++ hi := by
  rw [byteSwap, BitVec.extractLsb'_append_eq_right, BitVec.extractLsb'_append_eq_left]

/-- The other byte order reads every sample with its bytes exchanged. -/
theorem sampleOfBytes_otherOrder {o o' : ByteOrder} (h : o ≠ o') (a b : BitVec 8) :
    sampleOfBytes o' a b = byteSwap (sampleOfBytes o a b) := by
  cases o <;> cases o'
  · exact absurd rfl h
  · exact (byteSwap_append b a).symm
  · exact (byteSwap_append a b).symm
  · exact absurd rfl h

/-- The three axis tags share their first sample (00_scope.md R6). -/
theorem fst_of_axisClass {t : Tag} (h : classOf cfg t = .xax ∨ classOf cfg t = .yax ∨ classOf cfg t = .zax) :
    t.1 = 0x0002 := by
  rw [classOf_cfg] at h
  split_ifs at h with hbnd hx hy hz
  · simp at h
  · rw [hx]
  · rw [hy]
  · rw [hz]
  · simp at h

/-- The first samples of the four named tags are 0x0000 and 0x0002. -/
theorem classOf_oth_of_fst {t : Tag} (h0 : t.1 ≠ 0x0000) (h2 : t.1 ≠ 0x0002) : classOf cfg t = .oth := by
  refine classOf_other fun hmem => ?_
  simp only [cfg_tagBnd, cfg_tagX, cfg_tagY, cfg_tagZ, List.mem_cons, List.not_mem_nil, or_false] at hmem
  rcases hmem with rfl | rfl | rfl | rfl
  · exact h0 rfl
  all_goals exact h2 rfl

/-- A sample whose two bytes are equal is the same in both byte orders. -/
theorem sampleOfBytes_eq_of_swapFixed {k : Sample} (hk : byteSwap k = k) (o o' : ByteOrder) {a b : BitVec 8}
    (h : sampleOfBytes o a b = k) : sampleOfBytes o' a b = k := by
  by_cases ho : o = o'
  · rw [← ho, h]
  · rw [sampleOfBytes_otherOrder ho, h, hk]

/-- Settles O58: exchanging the bytes makes the first sample of an axis tag 0x0200, and leaves 0x0000 and 0xFFFF. -/
theorem wrongByteOrderLosesEveryAxisTag : Obligations.WrongByteOrderLosesEveryAxisTag := by
  refine ⟨fun a b c d k hk o o' ho hclass => ?_, fun a b o o' k hk => ?_⟩
  · have hfst : sampleOfBytes o a b = 0x0002 := fst_of_axisClass (by rwa [hclass])
    have hswap : sampleOfBytes o' a b = 0x0200 := by rw [sampleOfBytes_otherOrder ho, hfst]; decide
    refine classOf_oth_of_fst ?_ ?_ <;> simp only [hswap] <;> decide
  · have hfixed : byteSwap k = k := by rcases hk with rfl | rfl <;> decide
    exact ⟨sampleOfBytes_eq_of_swapFixed hfixed o o', sampleOfBytes_eq_of_swapFixed hfixed o' o⟩

end Sys2Proof.Machine

/-! The encoding: a sub-record instruction and its word determine each other up to the don't-care fields (30_encoding.md). -/

namespace Sys2Proof

/-! ## A sub-record instruction by its tag and value sample -/

/-- The value sample that the short form of a sub-record instruction writes: 0x0000 for BND, the operand otherwise
(30_encoding.md R54). A command has none. -/
def Instr.shortValue : Instr → Sample
  | .bnd => 0x0000
  | .xax v => v
  | .yax v => v
  | .zax v => v
  | .oth _ _ v => v
  | .reset => 0x0000
  | .start => 0x0000

/-- The encoder writes the short form of the tag and the value sample. -/
theorem encode_of_tag {i : Instr} {t : Tag} (h : i.tag cfg = some t) :
    encode i = .sr (packWord (shortForm t i.shortValue)) := by
  cases i <;> cases h <;> rfl

/-- An OTH is well formed when its tag is none of the four named ones (30_encoding.md R54). -/
theorem Instr.wf_oth {c : Config} {t0 t1 v : Sample} :
    (Instr.oth t0 t1 v).wf c = true ↔ (t0, t1) ∉ [c.tagBnd, c.tagX, c.tagY, c.tagZ] := by
  rw [Instr.wf, Bool.not_eq_true', decide_eq_false_iff_not]

/-- The five rows of the table as the decoder goes through them (30_encoding.md R50). -/
theorem decodeFields_cases (t0 t1 v : Sample) :
    ((t0, t1) = cfg.tagBnd ∧ decodeFields t0 t1 v = .bnd) ∨
    ((t0, t1) = cfg.tagX ∧ decodeFields t0 t1 v = .xax v) ∨
    ((t0, t1) = cfg.tagY ∧ decodeFields t0 t1 v = .yax v) ∨
    ((t0, t1) = cfg.tagZ ∧ decodeFields t0 t1 v = .zax v) ∨
    ((t0, t1) ∉ [cfg.tagBnd, cfg.tagX, cfg.tagY, cfg.tagZ] ∧ decodeFields t0 t1 v = .oth t0 t1 v) := by
  rw [decodeFields_eq]
  by_cases hmem : (t0, t1) ∈ [cfg.tagBnd, cfg.tagX, cfg.tagY, cfg.tagZ]
  · simp only [List.mem_cons, List.not_mem_nil, or_false] at hmem
    rcases hmem with h | h | h | h
    · exact .inl ⟨h, by rw [h, classOf_tagBnd]⟩
    · exact .inr (.inl ⟨h, by rw [h, classOf_tagX]⟩)
    · exact .inr (.inr (.inl ⟨h, by rw [h, classOf_tagY]⟩))
    · exact .inr (.inr (.inr (.inl ⟨h, by rw [h, classOf_tagZ]⟩)))
  · exact .inr (.inr (.inr (.inr ⟨hmem, by rw [classOf_other hmem]⟩)))

/-- Decoding keeps the tag pair (30_encoding.md R47). -/
theorem decodeFields_tag (t0 t1 v : Sample) : (decodeFields t0 t1 v).tag cfg = some (t0, t1) := by
  rcases decodeFields_cases t0 t1 v with ⟨h, e⟩ | ⟨h, e⟩ | ⟨h, e⟩ | ⟨h, e⟩ | ⟨h, e⟩ <;>
    simp only [e, h, Instr.tag]

/-- The decoder answers OTH only for a tag that is none of the four (30_encoding.md R52). -/
theorem decodeFields_wf (t0 t1 v : Sample) : (decodeFields t0 t1 v).wf cfg = true := by
  rcases decodeFields_cases t0 t1 v with ⟨-, e⟩ | ⟨-, e⟩ | ⟨-, e⟩ | ⟨-, e⟩ | ⟨h, e⟩ <;> rw [e]
  case inr.inr.inr.inr => exact Instr.wf_oth.2 h
  all_goals rfl

/-- Decoding keeps the value sample but that of a boundary (30_encoding.md R49). -/
theorem decodeFields_shortValue (t0 t1 v : Sample) :
    (decodeFields t0 t1 v).shortValue = if decodeFields t0 t1 v = .bnd then 0x0000 else v := by
  rcases decodeFields_cases t0 t1 v with ⟨-, e⟩ | ⟨-, e⟩ | ⟨-, e⟩ | ⟨-, e⟩ | ⟨-, e⟩ <;>
    simp [e, Instr.shortValue]

/-- A well-formed sub-record instruction is the decoding of its own tag and value sample (30_encoding.md R54). -/
theorem decodeFields_of_tag {i : Instr} {t : Tag} (hw : i.wf cfg = true) (h : i.tag cfg = some t) :
    decodeFields t.1 t.2 i.shortValue = i := by
  cases i <;> cases h
  case bnd => rfl
  case xax v => rfl
  case yax v => rfl
  case zax v => rfl
  case oth t0 t1 v =>
    rw [decodeFields_eq, classOf_other (Instr.wf_oth.1 hw)]
    rfl

/-! ## Words -/

/-- The decoder reads three samples of the packed sub-record (30_encoding.md R46). -/
theorem decodeSubRecord_packWord (r : SubRecord) : decodeSubRecord (packWord r) = decodeFields r.t0 r.t1 r.v := by
  change decodeFields (unpackWord (packWord r)).t0 (unpackWord (packWord r)).t1 (unpackWord (packWord r)).v = _
  rw [unpackWord_packWord]

/-- Settles O34: a sub-record instruction is the decoding of its tag and value sample, which its word holds; a command sets its own
pin. -/
theorem decodeInvertsEncode : Obligations.DecodeInvertsEncode := by
  intro i hw
  cases htag : i.tag cfg with
  | some t =>
    rw [encode_of_tag htag, decode, decodeSubRecord_packWord]
    exact congrArg _ (decodeFields_of_tag hw htag)
  | none => cases i <;> cases htag <;> rfl

/-- Settles O35: the decoded instruction is encoded as the short form of the word's tag and the value sample kept. -/
theorem encodeKeepsTheUsedFields : Obligations.EncodeKeepsTheUsedFields := by
  intro w
  refine ⟨_, encode_of_tag (decodeFields_tag _ _ _), ?_⟩
  rw [unpackWord_packWord, decodeSubRecord, decodeFields_shortValue]
  rfl

/-- Settles O37: every word goes one of the five ways of `decodeFields_cases`, each with its own tag. -/
theorem everySubRecordWordIsLegal : Obligations.EverySubRecordWordIsLegal := fun _ =>
  ⟨_, _, rfl, decodeFields_wf _ _ _, decodeFields_subClass _ _ _, decodeFields_tag _ _ _⟩

/-! ## The table -/

/-- The mask of the four named rows: the two tag samples (30_encoding.md R50). -/
def tagMask : BitVec 128 := packWord (shortForm (0xFFFF, 0xFFFF) 0x0000)

/-- The row of a named tag: the tag samples must match, the rest is masked out. -/
def tagRow (c : SubClass) (t : Tag) : TableRow := ⟨c, packWord (shortForm t 0x0000), tagMask⟩

/-- The table is the four named rows and the default row. -/
theorem subRecordTable_eq :
    subRecordTable = [tagRow .bnd cfg.tagBnd, tagRow .xax cfg.tagX, tagRow .yax cfg.tagY, tagRow .zax cfg.tagZ,
      ⟨.oth, 0, 0⟩] := by decide

/-- A word is made of its eight samples (30_encoding.md R46). -/
theorem packWord_unpackWord (w : BitVec 128) : packWord (unpackWord w) = w := by
  simp only [packWord, unpackWord, wordSample]
  iterate 7 rw [BitVec.extractLsb'_append_extractLsb'_eq_extractLsb' (by rfl)]
  exact BitVec.extractLsb'_eq_self

theorem wordSample_and (w m : BitVec 128) (k : Nat) : wordSample (w &&& m) k = wordSample w k &&& wordSample m k :=
  BitVec.extractLsb'_and

/-- Under the mask a word keeps its two tag samples and no other. -/
theorem unpackWord_and_tagMask (w : BitVec 128) :
    unpackWord (w &&& tagMask) = shortForm (wordSample w 4, wordSample w 5) 0x0000 := by
  have hclear : ∀ k ∈ [0, 1, 2, 3, 6, 7], wordSample (w &&& tagMask) k = 0x0000 := by
    intro k hk
    have hmask : ∀ k ∈ [0, 1, 2, 3, 6, 7], wordSample tagMask k = 0x0000 := by decide
    rw [wordSample_and, hmask k hk]
    exact BitVec.and_zero
  have hkeep : ∀ k ∈ [4, 5], wordSample (w &&& tagMask) k = wordSample w k := by
    intro k hk
    have hmask : ∀ k ∈ [4, 5], wordSample tagMask k = BitVec.allOnes 16 := by decide
    rw [wordSample_and, hmask k hk, BitVec.and_allOnes]
  simp [unpackWord, shortForm, hclear, hkeep]

/-- Words of short forms with the same value sample are equal only if their tags are. -/
theorem packWord_shortForm_inj {t t' : Tag} {v : Sample} :
    packWord (shortForm t v) = packWord (shortForm t' v) ↔ t = t' := by
  refine ⟨fun h => ?_, fun h => by rw [h]⟩
  have hr : shortForm t v = shortForm t' v := by rw [← unpackWord_packWord (shortForm t v), h, unpackWord_packWord]
  exact Prod.ext (congrArg SubRecord.t0 hr) (congrArg SubRecord.t1 hr)

/-- A named row matches exactly the words with its tag. -/
theorem tagRow_fits (c : SubClass) (t : Tag) (w : BitVec 128) :
    (tagRow c t).fits w = true ↔ (wordSample w 4, wordSample w 5) = t := by
  rw [TableRow.fits, beq_iff_eq, tagRow, ← packWord_unpackWord (w &&& tagMask), unpackWord_and_tagMask,
    packWord_shortForm_inj]

/-- Settles O36: a row's match is a test of the tag matcher; the four named rows share their mask and have different
patterns. -/
theorem decoderFollowsTheTable : Obligations.DecoderFollowsTheTable := by
  refine ⟨fun w => ?_, fun w r r' hr hr' hfits hfits' => ?_⟩
  · rw [decodeSubRecord, decodeFields_subClass, subRecordTable_eq, classOf]
    have hdefault : TableRow.fits ⟨.oth, 0, 0⟩ w = true := by simp [TableRow.fits]
    simp only [firstRow, tagRow_fits, hdefault, if_true, apply_ite some]
    rfl
  · have hmask : ∀ q ∈ subRecordTable.take 4, q.mask = tagMask := by decide
    have hpat : ∀ q ∈ subRecordTable.take 4, ∀ q' ∈ subRecordTable.take 4, q.pattern = q'.pattern → q = q' := by decide
    rw [TableRow.fits, beq_iff_eq, hmask _ hr] at hfits
    rw [TableRow.fits, beq_iff_eq, hmask _ hr'] at hfits'
    exact hpat r hr r' hr' (hfits.symm.trans hfits')

end Sys2Proof

/-! Two blocks with the same tags and the same captured values give the same scan (30_encoding.md R49). -/

namespace Sys2Proof.Machine

/-! ## The scan of a loaded block -/

/-- A state in which block `b` is loaded and the host has no move to come: BLK reads as `b`. -/
structure ScansBlock (b : RawBlock) (s : State) : Prop where
  inputs : s.inputs = []
  reads : ∀ a, a < 56 → s.blk.read a = some (b.at a)

/-- Every step takes the host's move. -/
theorem step_inputs {s t : State} (h : step s = .next t) : t.inputs = s.inputs.tail := by
  cases stepKind_of_step h with
  | idle => rfl
  | write => rfl
  | reset => rfl
  | start => rfl
  | scan hs he => cases he <;> simp

namespace ScansBlock

variable {b b' : RawBlock} {s t : State}

/-- The block stays loaded: a silent host writes nothing (20_memory.md R36). -/
theorem of_step (hs : ScansBlock b s) (h : step s = .next t) : ScansBlock b t := by
  have hblk : t.blk = s.blk := (onlyTheHostWritesBlk s t h (by simp [nextMove, hs.inputs])).1
  exact ⟨by rw [step_inputs h, hs.inputs]; rfl, by rw [hblk]; exact hs.reads⟩

theorem nextMove_eq (hs : ScansBlock b s) : nextMove s = .pins false false := by
  rw [nextMove, hs.inputs]; rfl

theorem dropMove_eq (hs : ScansBlock b s) : dropMove s = s := by
  cases s; cases hs.inputs; rfl

/-- With RUN = 0 nothing happens (40_scan_control.md R65). -/
theorem step_idle (hs : ScansBlock b s) (hr : s.run = false) : step s = .next s := by
  rw [step, fetch_of_idle hs.nextMove_eq hr]
  exact congrArg _ hs.dropMove_eq

/-- With RUN = 1 the step is the sub-record of the block that IDX selects (40_scan_control.md R62). -/
theorem step_scan (hs : ScansBlock b s) (hr : s.run = true) (hi : s.idx.toNat < 7) :
    step s = exec (decodeFields (b.at (8 * s.idx.toNat + 4)) (b.at (8 * s.idx.toNat + 5))
      (b.at (8 * s.idx.toNat + 7))) s := by
  have hf := fetchSubRecord_of_read hi (hs.reads _ (by omega)) (hs.reads _ (by omega)) (hs.reads _ (by omega))
  rw [step_of_fetch_instr (fetch_of_scan hs.nextMove_eq hr hf), hs.dropMove_eq]

/-- A step with RUN = 1 that has a next state finds IDX at a sub-record of the block. -/
theorem idx_lt (hs : ScansBlock b s) (hr : s.run = true) (h : step s = .next t) : s.idx.toNat < 7 := by
  by_contra hi
  have hf : fetch s = .stop .indexPastBlock := by
    simp [fetch, hs.nextMove_eq, decodePins, hr, fetchSubRecord, hi]
  simp [step, hf] at h

end ScansBlock

/-! ## Two blocks -/

/-- Of a sub-record's value sample an operation looks at nothing but the one it captures (41_subrecord_ops.md R70 to R74). -/
theorem exec_decodeFields_value {s : State} {t0 t1 v v' : Sample}
    (h : classOf cfg (t0, t1) = wantedClass s.st → s.st ≠ .seekStart → v = v') :
    exec (decodeFields t0 t1 v) s = exec (decodeFields t0 t1 v') s := by
  by_cases hcap : classOf cfg (t0, t1) = wantedClass s.st ∧ s.st ≠ .seekStart
  · rw [h hcap.1 hcap.2]
  · rw [decodeFields_eq, decodeFields_eq]
    cases hc : classOf cfg (t0, t1) with
    | bnd => rfl
    | xax => cases hs : s.st <;> simp_all [exec, execXax, wantedClass]
    | yax => cases hs : s.st <;> simp_all [exec, execYax, wantedClass]
    | zax => cases hs : s.st <;> simp_all [exec, execZax, wantedClass]
    | oth => rfl

/-- One step of two blocks with the same tags, and with the same value sample if the step captures it, leaves states that
differ in BLK alone. -/
theorem ScansBlock.step_withBlk {b b' : RawBlock} {s t : State} {m : Memory} (hs : ScansBlock b s)
    (hs' : ScansBlock b' (withBlk m s))
    (htag : ∀ i, i < 7 → b.at (8 * i + 4) = b'.at (8 * i + 4) ∧ b.at (8 * i + 5) = b'.at (8 * i + 5))
    (hval : s.run = true → s.idx.toNat < 7 → blockClass b s.idx.toNat = wantedClass s.st → s.st ≠ .seekStart →
      b.at (8 * s.idx.toNat + 7) = b'.at (8 * s.idx.toNat + 7))
    (h : step s = .next t) : step (withBlk m s) = .next (withBlk m t) := by
  cases hr : s.run with
  | false =>
    cases (hs.step_idle hr).symm.trans h
    exact hs'.step_idle hr
  | true =>
    have hi := hs.idx_lt hr h
    obtain ⟨h4, h5⟩ := htag _ hi
    have hexec := (hs.step_scan hr hi).symm.trans h
    have hexec' := hs'.step_scan hr hi
    have heffect := (scanEffect_of_exec (decodeFields_subClass _ _ _) hexec).withBlk m
    calc step (withBlk m s)
        = exec (decodeFields (b.at (8 * s.idx.toNat + 4)) (b.at (8 * s.idx.toNat + 5))
            (b'.at (8 * s.idx.toNat + 7))) (withBlk m s) := by rw [h4, h5]; exact hexec'
      _ = exec (decodeFields (b.at (8 * s.idx.toNat + 4)) (b.at (8 * s.idx.toNat + 5))
            (b.at (8 * s.idx.toNat + 7))) (withBlk m s) := (exec_decodeFields_value (s := withBlk m s) (hval hr hi)).symm
      _ = .next (withBlk m t) := heffect.exec_eq

/-- The scan of a block begins with the registers of START, whatever the block (40_scan_control.md R61). -/
theorem afterScanSteps_zero (b : RawBlock) {s : State} (hr : s.run = false) :
    ∃ m, ScansBlock b { initRegisters s with run := true, inputs := [], blk := m } ∧
      afterScanSteps b s 0 = .next { initRegisters s with run := true, inputs := [], blk := m } := by
  obtain ⟨m, hm, h⟩ := hostCalls_started b s hr
  exact ⟨m, ⟨rfl, hm⟩, h⟩

/-- After `n` ScanSteps the two blocks' scans differ in BLK alone. -/
theorem afterScanSteps_withBlk {b b' : RawBlock} {s : State} (hr : s.run = false)
    (htag : ∀ i, i < 7 → b.at (8 * i + 4) = b'.at (8 * i + 4) ∧ b.at (8 * i + 5) = b'.at (8 * i + 5))
    (hval : ∀ i, i < 7 → captured b s i → b.at (8 * i + 7) = b'.at (8 * i + 7)) (n : Nat) {t : State}
    (h : afterScanSteps b s n = .next t) :
    ScansBlock b t ∧ ∃ m, ScansBlock b' (withBlk m t) ∧ afterScanSteps b' s n = .next (withBlk m t) := by
  induction n generalizing t with
  | zero =>
    obtain ⟨m, hscan, hstart⟩ := afterScanSteps_zero b hr
    obtain ⟨m', hscan', hstart'⟩ := afterScanSteps_zero b' hr
    cases hstart.symm.trans h
    exact ⟨hscan, m', hscan', hstart'⟩
  | succ n ih =>
    obtain ⟨u, hu, hstep⟩ := runSteps_prefix h
    obtain ⟨hscan, m, hscan', hu'⟩ := ih hu
    have hstep' : step (withBlk m u) = .next (withBlk m t) := hscan.step_withBlk hscan' htag
      (fun hrun hi hclass hst => hval _ hi ⟨n, u, hu, hrun, rfl, hclass, hst⟩) hstep
    exact ⟨hscan.of_step hstep, m, hscan'.of_step hstep', (runSteps_succ hu').trans hstep'⟩

/-- Settles O51: the two scans differ in BLK alone, which is none of the ten registers. -/
theorem unusedSamplesAreDontCare : Obligations.UnusedSamplesAreDontCare := by
  intro b b' s hr htag hval n t h
  obtain ⟨-, m, -, h'⟩ := afterScanSteps_withBlk hr htag hval n h
  exact ⟨withBlk m t, h', ⟨rfl, rfl, rfl, rfl, rfl, rfl, rfl, rfl, rfl, rfl⟩⟩

end Sys2Proof.Machine

/-! The step machine against the reference function, and how long a scan takes (40_scan_control.md R66, R67). -/

namespace Sys2Proof.Machine

/-! ## The reference function by the classes of a block -/

/-- The tag of the class that a state wants (41_subrecord_ops.md section 3, law 2). -/
def wantedTag : DecState → Tag
  | .seekStart => cfg.tagBnd
  | .wantX => cfg.tagX
  | .wantY => cfg.tagY
  | .wantZ => cfg.tagZ

/-- Finding the wanted class is finding the wanted tag. -/
theorem classOf_eq_wantedClass (st : DecState) (t : Tag) : classOf cfg t = wantedClass st ↔ t = wantedTag st := by
  by_cases hmem : t ∈ [cfg.tagBnd, cfg.tagX, cfg.tagY, cfg.tagZ]
  · simp only [List.mem_cons, List.not_mem_nil, or_false] at hmem
    rcases hmem with rfl | rfl | rfl | rfl <;> cases st <;> decide
  · rw [classOf_other hmem]
    constructor
    · intro h
      cases st <;> cases h
    · rintro rfl
      exact absurd (by cases st <;> decide) hmem

section ReferenceLoop

variable {b : RawBlock} {n i : Nat} {st : DecState} {x y z : Sample}

/-- A class that the state does not want sends the loop back to SeekStart, with X, Y and Z as they are. -/
theorem decodeLoop_unwanted (h : blockClass b i ≠ wantedClass st) :
    decodeLoop b (n + 1) i st x y z = decodeLoop b n (i + 1) .seekStart x y z := by
  have ht := mt (classOf_eq_wantedClass st _).2 h
  cases st <;> exact if_neg ht

theorem decodeLoop_bnd (h : blockClass b i = .bnd) :
    decodeLoop b (n + 1) i .seekStart x y z = decodeLoop b n (i + 1) .wantX 0 0 0 :=
  if_pos ((classOf_eq_wantedClass .seekStart _).1 h)

theorem decodeLoop_xax (h : blockClass b i = .xax) :
    decodeLoop b (n + 1) i .wantX x y z = decodeLoop b n (i + 1) .wantY (b.at (8 * i + 7)) y z :=
  if_pos ((classOf_eq_wantedClass .wantX _).1 h)

theorem decodeLoop_yax (h : blockClass b i = .yax) :
    decodeLoop b (n + 1) i .wantY x y z = decodeLoop b n (i + 1) .wantZ x (b.at (8 * i + 7)) z :=
  if_pos ((classOf_eq_wantedClass .wantY _).1 h)

theorem decodeLoop_zax (h : blockClass b i = .zax) :
    decodeLoop b (n + 1) i .wantZ x y z = ⟨classify cfg x y, true, i + 1, .wantZ, x, y, b.at (8 * i + 7)⟩ :=
  if_pos ((classOf_eq_wantedClass .wantZ _).1 h)

/-- The sub-records just before index `i` have the classes that lead from SeekStart to the state. -/
inductive MatchedBefore (b : RawBlock) : DecState → Nat → Prop where
  | none (i : Nat) : MatchedBefore b .seekStart i
  | bnd {i : Nat} (h : blockClass b i = .bnd) : MatchedBefore b .wantX (i + 1)
  | xax {i : Nat} (before : MatchedBefore b .wantX i) (h : blockClass b i = .xax) : MatchedBefore b .wantY (i + 1)
  | yax {i : Nat} (before : MatchedBefore b .wantY i) (h : blockClass b i = .yax) : MatchedBefore b .wantZ (i + 1)

/-- The four sub-records just before index `n` are a packet (40_scan_control.md R67). -/
def PacketBefore (b : RawBlock) (n : Nat) : Prop :=
  ∃ j, n = j + 4 ∧ blockClass b j = .bnd ∧ blockClass b (j + 1) = .xax ∧ blockClass b (j + 2) = .yax ∧
    blockClass b (j + 3) = .zax

/-- A ZAX found in WantZ ends four consecutive sub-records of the four classes in order. -/
theorem MatchedBefore.packetBefore (hm : MatchedBefore b .wantZ i) (hz : blockClass b i = .zax) :
    PacketBefore b (i + 1) := by
  cases hm with
  | yax hm hy =>
    cases hm with
    | xax hm hx =>
      cases hm with
      | bnd hb => exact ⟨_, rfl, hb, hx, hy, hz⟩

/-- The loop returns from the WantZ arm only behind a packet. -/
theorem packetBefore_of_decodeLoop (hm : MatchedBefore b st i) (h : (decodeLoop b n i st x y z).fromWantZ = true) :
    PacketBefore b (decodeLoop b n i st x y z).examined := by
  induction n generalizing i st x y z with
  | zero => cases h
  | succ n ih =>
    by_cases hw : blockClass b i = wantedClass st
    · cases st with
      | seekStart => rw [decodeLoop_bnd hw] at h ⊢; exact ih (.bnd hw) h
      | wantX => rw [decodeLoop_xax hw] at h ⊢; exact ih (hm.xax hw) h
      | wantY => rw [decodeLoop_yax hw] at h ⊢; exact ih (hm.yax hw) h
      | wantZ => rw [decodeLoop_zax hw]; exact hm.packetBefore hw
    · rw [decodeLoop_unwanted hw] at h ⊢
      exact ih (.none _) h

end ReferenceLoop

/-! ## What the scan under way will return -/

/-- The registers of a finished scan, as the reference function returns them. -/
def returned (s : State) : DecodeReturn := ⟨s.result, s.pkt, s.idx.toNat, s.st, s.x, s.y, s.z⟩

/-- What the scan of `b` returns: with RUN = 1, the reference function's loop over the sub-records from IDX on, with ST, X,
Y and Z as its locals; with RUN = 0, the registers. -/
def scanOutcome (b : RawBlock) (s : State) : DecodeReturn :=
  if s.run then decodeLoop b (7 - s.idx.toNat) s.idx.toNat s.st s.x s.y s.z else returned s

/-- The loop with the next sub-record still to examine taken off its count. -/
theorem scanOutcome_running {b : RawBlock} {s : State} (hr : s.run = true) (hi : s.idx.toNat < 7) :
    scanOutcome b s = decodeLoop b (6 - s.idx.toNat + 1) s.idx.toNat s.st s.x s.y s.z := by
  rw [scanOutcome, if_pos hr, show 7 - s.idx.toNat = 6 - s.idx.toNat + 1 by omega]

/-- Behind the tail the loop is one sub-record further; at the seventh, EndOfScan is its end. -/
theorem scanOutcome_scanTail {b : RawBlock} {r : State} (hr : r.run = true) (hp : r.pkt = false) (hi : r.idx.toNat < 7) :
    scanOutcome b (scanTail r) = decodeLoop b (6 - r.idx.toNat) (r.idx.toNat + 1) r.st r.x r.y r.z := by
  have hnext := toNat_idx_succ (Nat.le_of_lt_succ hi)
  by_cases h6 : r.idx = 6
  · simp [scanOutcome, returned, h6, hp, decodeLoop]
  · simp only [scanOutcome, scanTail_run, h6, if_false, hr, if_true, scanTail_idx, hnext, scanTail_st, scanTail_x,
      scanTail_y, scanTail_z]
    rw [show 7 - (r.idx.toNat + 1) = 6 - r.idx.toNat by omega]

/-- Completion is the return from the WantZ arm. -/
theorem scanOutcome_complete {b : RawBlock} {s : State} (v : Sample) (hi : s.idx.toNat < 7) :
    scanOutcome b (complete v s) = ⟨classify cfg s.x s.y, true, s.idx.toNat + 1, s.st, s.x, s.y, v⟩ := by
  simp only [scanOutcome, complete_run, Bool.false_eq_true, if_false, returned, complete_result, complete_pkt,
    complete_idx, toNat_idx_succ (Nat.le_of_lt_succ hi), complete_st, complete_x, complete_y, complete_z]

/-- A ScanStep is one turn of the reference function's loop: what the scan will return stays the same. -/
theorem ScansBlock.scanStep_keeps_outcome {b : RawBlock} {u : State} (hb : ScansBlock b u) (hr : u.run = true)
    (hp : u.pkt = false) (hi : u.idx.toNat < 7) : ∃ t, step u = .next t ∧ scanOutcome b t = scanOutcome b u := by
  rw [scanOutcome_running hr hi]
  rcases scanStep_cases b hb.inputs hr hi hb.reads with ⟨hs, hc, e⟩ | ⟨hs, hc, e⟩ | ⟨hs, hc, e⟩ | ⟨hs, hc, e⟩ |
    ⟨hs, hc, e⟩ | ⟨-, hc, e⟩ <;> refine ⟨_, e, ?_⟩
  · rw [hs, decodeLoop_unwanted hc, scanOutcome_scanTail hr hp hi, hs]
  · rw [hs, decodeLoop_bnd hc]; exact scanOutcome_scanTail hr hp hi
  · rw [hs, decodeLoop_xax hc]; exact scanOutcome_scanTail hr hp hi
  · rw [hs, decodeLoop_yax hc]; exact scanOutcome_scanTail hr hp hi
  · rw [hs, decodeLoop_zax hc, scanOutcome_complete _ hi, hs]
  · rw [decodeLoop_unwanted hc]; exact scanOutcome_scanTail hr hp hi

/-! ## The states of a scan -/

/-- A state between START and the next command: the block is loaded, the registers are legal, DONE says that the scan has
ended, and the scan returns what the reference function does. -/
structure InScanOf (b : RawBlock) (s : State) : Prop where
  block : ScansBlock b s
  legal : s.ScanInv
  ended : s.done = !s.run
  outcome : scanOutcome b s = decodeRun b

namespace InScanOf

variable {b : RawBlock} {s t : State}

theorem idx_lt (h : InScanOf b s) (hr : s.run = true) : s.idx.toNat < 7 :=
  Nat.lt_succ_of_le (h.legal.running hr).1

theorem running (h : InScanOf b s) (hd : s.done = false) : s.run = true := by
  simpa [hd] using h.ended

/-- The registers of an ended scan are the reference function's return. -/
theorem returned_eq (h : InScanOf b s) (hd : s.done = true) : returned s = decodeRun b := by
  have hr : s.run = false := by simpa [hd] using h.ended
  simpa [scanOutcome, hr] using h.outcome

/-- A ScanStep takes IDX one further and raises DONE if and only if it lowers RUN. -/
theorem scanStep (h : InScanOf b s) (hr : s.run = true) (hstep : step s = .next t) :
    t.idx.toNat = s.idx.toNat + 1 ∧ t.done = !t.run := by
  have hexec := (h.block.step_scan hr (h.idx_lt hr)).symm.trans hstep
  have he := scanEffect_of_exec (decodeFields_subClass _ _ _) hexec
  refine ⟨by rw [he.idx_eq, toNat_idx_succ (h.legal.running hr).1], ?_⟩
  rcases he.completes_or_tail with ⟨-, v, rfl⟩ | ⟨-, r, rfl, -, hrun, hdone, -⟩
  · rfl
  · have hended : r.done = !r.run := by rw [hdone, hrun, h.ended]
    rw [scanTail_done, scanTail_run]
    split_ifs
    · rfl
    · exact hended

/-- Every step goes on with the scan, or leaves an ended one as it is. -/
theorem exists_step (h : InScanOf b s) : ∃ t, step s = .next t ∧ InScanOf b t := by
  cases hr : s.run with
  | false => exact ⟨s, h.block.step_idle hr, h⟩
  | true =>
    obtain ⟨-, hpkt, -⟩ := h.legal.running hr
    obtain ⟨t, hstep, hout⟩ := h.block.scanStep_keeps_outcome hr hpkt (h.idx_lt hr)
    exact ⟨t, hstep, h.block.of_step hstep, step_keeps_scanInv h.legal hstep, (h.scanStep hr hstep).2,
      hout.trans h.outcome⟩

/-- An ended scan has examined at least four sub-records: those of its packet, or all seven (10_state.md R25). -/
theorem four_le_idx (h : InScanOf b s) (hd : s.done = true) : 4 ≤ s.idx.toNat := by
  cases hp : s.pkt with
  | true =>
    obtain ⟨-, -, hidx⟩ := h.legal.packet hp
    exact hidx
  | false =>
    obtain ⟨hidx, -⟩ := h.legal.incomplete hd hp
    rw [hidx]; decide

end InScanOf

/-- The scan of a block, step by step: while it runs, IDX counts its ScanSteps. -/
theorem afterScanSteps_inScanOf (b : RawBlock) {s : State} (hr : s.run = false) (n : Nat) :
    ∃ t, afterScanSteps b s n = .next t ∧ InScanOf b t ∧ (t.run = true → t.idx.toNat = n) := by
  induction n with
  | zero =>
    obtain ⟨m, hscan, hstart⟩ := afterScanSteps_zero b hr
    exact ⟨_, hstart, ⟨hscan, scanInv_initRegisters { s with inputs := [], blk := m } true, rfl, rfl⟩, fun _ => rfl⟩
  | succ n ih =>
    obtain ⟨u, hu, hin, hidx⟩ := ih
    obtain ⟨t, hstep, hin'⟩ := hin.exists_step
    refine ⟨t, (runSteps_succ hu).trans hstep, hin', fun hrun => ?_⟩
    cases hur : u.run with
    | true => rw [(hin.scanStep hur hstep).1, hidx hur]
    | false =>
      cases (hin.block.step_idle hur).symm.trans hstep
      exact absurd (hur.symm.trans hrun) (by decide)

/-- DONE is 1 after seven ScanSteps at the latest, since IDX would be 7 with RUN = 1. -/
theorem exists_done (b : RawBlock) {s : State} (hr : s.run = false) :
    ∃ n t, afterScanSteps b s n = .next t ∧ t.done = true := by
  obtain ⟨t, ht, hin, hidx⟩ := afterScanSteps_inScanOf b hr 7
  refine ⟨7, t, ht, ?_⟩
  cases hrun : t.run with
  | false => rw [hin.ended, hrun]; rfl
  | true => exact absurd (hin.idx_lt hrun) (by rw [hidx hrun]; decide)

/-- The first state with DONE = 1 comes after IDX ScanSteps, as the states before it do. -/
theorem exists_first_done (b : RawBlock) {s : State} (hr : s.run = false) :
    ∃ n t, afterScanSteps b s n = .next t ∧ t.done = true ∧ InScanOf b t ∧ t.idx.toNat = n ∧
      ∀ m, m < n → ∃ u, afterScanSteps b s m = .next u ∧ u.done = false ∧ InScanOf b u ∧ u.idx.toNat = m := by
  classical
  obtain ⟨n, ⟨t, ht, hd⟩, hfirst⟩ := Nat.findX (exists_done b hr)
  have hbefore : ∀ m, m < n → ∃ u, afterScanSteps b s m = .next u ∧ u.done = false ∧ InScanOf b u ∧ u.idx.toNat = m := by
    intro m hm
    obtain ⟨u, hu, hin, hidx⟩ := afterScanSteps_inScanOf b hr m
    have hud : u.done = false := by simpa using fun hd => hfirst m hm ⟨u, hu, hd⟩
    exact ⟨u, hu, hud, hin, hidx (hin.running hud)⟩
  obtain ⟨t', ht', hin, -⟩ := afterScanSteps_inScanOf b hr n
  cases ht.symm.trans ht'
  refine ⟨n, t, ht, hd, hin, ?_, hbefore⟩
  cases n with
  | zero =>
    obtain ⟨m, -, hstart⟩ := afterScanSteps_zero b hr
    cases hstart.symm.trans ht
    cases hd
  | succ n =>
    obtain ⟨u, hu, hud, huin, huidx⟩ := hbefore n (Nat.lt_succ_self n)
    rw [(huin.scanStep (huin.running hud) ((runSteps_succ hu).symm.trans ht)).1, huidx]

/-- Settles O48: every ScanStep keeps what the scan will return, which at START is the reference function's return and at
the end the registers. -/
theorem scanComputesDecode : Obligations.ScanComputesDecode := by
  intro b s hr
  obtain ⟨n, t, ht, hd, hin, hidx, hbefore⟩ := exists_first_done b hr
  have hret := hin.returned_eq hd
  refine ⟨n, t, hidx ▸ hin.four_le_idx hd, by omega, ht, hd, congrArg DecodeReturn.result hret,
    congrArg DecodeReturn.fromWantZ hret, congrArg DecodeReturn.x hret, congrArg DecodeReturn.y hret,
    congrArg DecodeReturn.z hret, congrArg DecodeReturn.st hret, fun m hm => ?_⟩
  obtain ⟨u, hu, hud, -⟩ := hbefore m hm
  exact ⟨u, hu, hud⟩

/-- Settles O49: a scan that ends with a packet is a return of the reference function from its WantZ arm, which is reached
behind the four classes in order only. -/
theorem scanLengthIsFourToSeven : Obligations.ScanLengthIsFourToSeven := by
  intro b s hr
  obtain ⟨n, t, ht, hd, hin, hidx, hbefore⟩ := exists_first_done b hr
  have hret := hin.returned_eq hd
  have hle : n ≤ 7 := by omega
  refine ⟨n, t, hidx ▸ hin.four_le_idx hd, hle, ht, hd, hidx, fun m hm => ?_, fun hp => ?_, fun hp => ?_⟩
  · obtain ⟨u, hu, hud, huin, -⟩ := hbefore m hm
    have hup : u.pkt ≠ true := fun hp => absurd (hud.symm.trans (huin.legal.packet hp).1) (by decide)
    exact ⟨u, hu, hud, by simpa using hup⟩
  · have hpacket : PacketBefore b (decodeRun b).examined :=
      packetBefore_of_decodeLoop (.none 0) ((congrArg DecodeReturn.fromWantZ hret).symm.trans hp)
    rw [← hret] at hpacket
    obtain ⟨j, hj, hclasses⟩ := hpacket
    have hn : n = j + 4 := hidx.symm.trans hj
    exact ⟨j, by omega, hn, hclasses⟩
  · exact hidx.symm.trans (hin.legal.incomplete hd hp).1

end Sys2Proof.Machine

/-! The commands, the idle block, and the two ways a scan ends (40_scan_control.md R60, R61, R63 to R65). -/

namespace Sys2Proof.Machine
open Sys2Proof.Claims

/-! ## The commands -/

/-- Settles O2: RESET writes the reset values, and with `rst` high the fetch finds RESET whatever else could happen. -/
theorem resetClearsEveryRegister : Obligations.ResetClearsEveryRegister := by
  refine ⟨fun s => rfl, fun s start rest h => ?_⟩
  have hm : nextMove s = .pins true start := by rw [nextMove, h]; rfl
  have hd : dropMove s = { s with inputs := rest } := by rw [dropMove, h]; rfl
  rw [step_of_fetch_instr (fetch_of_rst hm), hd]
  rfl

/-- Settles O3: START asks that every sample of BLK is loaded. -/
theorem startBeginsAFreshScan : Obligations.StartBeginsAFreshScan := by
  refine ⟨fun s h => if_pos ((Memory.loaded_iff s.blk).2 h), fun s ⟨a, ha, hnone⟩ => if_neg fun hl => ?_⟩
  obtain ⟨v, hv⟩ := (Memory.loaded_iff s.blk).1 hl a ha
  cases hnone.symm.trans hv

/-! ## The idle block -/

/-- With RUN = 0 and no host move to come, no number of steps changes anything (40_scan_control.md R65). -/
theorem runSteps_idle {s : State} (hr : s.run = false) (hin : s.inputs = []) (n : Nat) : runSteps n s = .next s := by
  have hm : nextMove s = .pins false false := by rw [nextMove, hin]; rfl
  have hd : dropMove s = s := by cases s; cases hin; rfl
  have hstep : step s = .next s := by rw [step, fetch_of_idle hm hr]; exact congrArg _ hd
  induction n with
  | zero => rfl
  | succ n ih => exact (runSteps_succ ih).trans hstep

/-- Settles O8: of the steps a block with RUN = 0 has, only the commands write a register. -/
theorem idleBlockHoldsItsRegisters : Obligations.IdleBlockHoldsItsRegisters := by
  refine ⟨fun s t hr hpins h => ?_, fun s hr hin => runSteps_idle hr hin⟩
  rcases step_cases h with ⟨-, -, rfl⟩ | ⟨a, v, -, -, -, rfl⟩ | ⟨b, hm, -⟩ | ⟨hm, -⟩ | ⟨i, c, -, hrun, -⟩
  · constructor <;> rfl
  · constructor <;> rfl
  · cases (hpins _ _ hm).1
  · cases (hpins _ _ hm).2
  · cases hr.symm.trans hrun

/-! ## The end of a scan -/

/-- Every sub-record has an effect in every state. -/
theorem exists_scanEffect {i : Instr} {c : SubClass} (hc : i.subClass = some c) (s : State) : ∃ t, ScanEffect s i t := by
  have hexec : ∃ t, exec i s = .next t := by
    rcases exec_subRecord_cases hc s with ⟨-, -, e⟩ | ⟨-, -, e⟩ | ⟨v, -, -, e⟩ | ⟨v, -, -, e⟩ | ⟨v, -, -, e⟩ |
      ⟨g, -, -, -, e⟩ <;> exact ⟨_, e⟩
  exact hexec.imp fun t => scanEffect_of_exec hc

/-- What a sub-record writes to ST, X, Y, Z and MIS does not depend on IDX. -/
theorem ScanEffect.withIdx {s t : State} {i : Instr} (h : ScanEffect s i t) (k : BitVec 3) :
    ∃ u, ScanEffect { s with idx := k } i u ∧ t.st = u.st ∧ t.x = u.x ∧ t.y = u.y ∧ t.z = u.z ∧ t.mis = u.mis := by
  cases h with
  | skip hc hn hs => exact ⟨_, .skip hc hn hs, by simp⟩
  | boundary hs => exact ⟨_, .boundary hs, by simp⟩
  | captureX hs => exact ⟨_, .captureX hs, by simp⟩
  | captureY hs => exact ⟨_, .captureY hs, by simp⟩
  | completion hs => exact ⟨_, .completion hs, by simp⟩
  | mismatch hc hw hs hg => exact ⟨_, .mismatch hc hw hs hg, by simp⟩

/-- The outputs of an ended scan without a packet name IncompleteBlock (10_state.md R19). -/
theorem cause_incompleteBlock {s : State} (hd : s.done = true) (hp : s.pkt = false) (hr : s.result = .indeterminate) :
    (outputs s).cause = 2 := by
  simp [outputs, causeKind, hd, hp, hr, ErrorKind.code]

/-- Settles O18: a sub-record that completes no packet leaves the scan to the tail, which at IDX 6 is EndOfScan. -/
theorem endOfScanGivesIndeterminate : Obligations.EndOfScanGivesIndeterminate := by
  intro i c s hc h6 hn
  obtain ⟨t, he⟩ := exists_scanEffect hc s
  obtain ⟨u, he', hst, hx, hy, hz, hmis⟩ := he.withIdx 2
  rcases he.completes_or_tail with ⟨hcomp, -⟩ | ⟨-, r, rfl, hidx, -, -, hpkt⟩
  · exact absurd hcomp hn
  · have hlast : r.idx = 6 := hidx.trans h6
    have hresult : (scanTail r).result = .indeterminate := by simp [hlast]
    have hdone : (scanTail r).done = true := by simp [hlast]
    exact ⟨_, u, he.exec_eq, he'.exec_eq, hresult, hdone, by simp [hlast], by simp [hlast], by simp [hpkt], hst, hx, hy, hz,
      hmis, fun hp => cause_incompleteBlock hdone (by simp [hpkt, hp]) hresult⟩

/-- Settles O19: completion leaves RUN = 0, where no step is enabled; in a legal state ST = WantZ counts three sub-records
already matched. -/
theorem completionEndsTheScanForGood : Obligations.CompletionEndsTheScanForGood := by
  intro s v hz
  refine ⟨_, (ScanEffect.completion hz).exec_eq, rfl, rfl, rfl, rfl, rfl, rfl, fun m n => runSteps_idle rfl rfl n,
    fun hs hr => ⟨?_, (hs.scan.running hr).1⟩⟩
  have hm := hs.scan.matched hr
  rwa [hz] at hm

end Sys2Proof.Machine

/-! The five sub-record operations: their writes with the common tail, and which words decode to them (41_subrecord_ops.md). -/

namespace Sys2Proof.Machine
open Sys2Proof.Claims

/-! ## Encodings -/

/-- The decoder's answer is the one well-formed instruction with the tag and, but for BND, the value sample that were read
(30_encoding.md R50, R52). -/
theorem decodeFields_eq_iff {t0 t1 v : Sample} {i : Instr} :
    decodeFields t0 t1 v = i ↔ i.wf cfg = true ∧ i.tag cfg = some (t0, t1) ∧ (i ≠ .bnd → v = i.shortValue) := by
  constructor
  · rintro rfl
    exact ⟨decodeFields_wf _ _ _, decodeFields_tag _ _ _, fun hb => by rw [decodeFields_shortValue, if_neg hb]⟩
  · rintro ⟨hw, ht, hv⟩
    by_cases hb : i = .bnd
    · subst hb; cases ht; rfl
    · rw [hv hb]; exact decodeFields_of_tag hw ht

/-- The same of a sub-record word, whose samples 4, 5 and 7 are read (30_encoding.md R47, R48). -/
theorem decode_sr_eq_ok_iff {w : BitVec 128} {i : Instr} :
    decode (.sr w) = .ok i ↔ i.wf cfg = true ∧ i.tag cfg = some (wordSample w 4, wordSample w 5) ∧
      (i ≠ .bnd → wordSample w 7 = i.shortValue) := by
  rw [decode, Except.ok.injEq]
  exact decodeFields_eq_iff

/-- An instruction other than BND is decoded exactly from its own tag and value sample. -/
theorem decode_sr_eq_ok_iff_of_tag {w : BitVec 128} {i : Instr} {t0 t1 : Sample} (hw : i.wf cfg = true)
    (ht : i.tag cfg = some (t0, t1)) (hb : i ≠ .bnd) :
    decode (.sr w) = .ok i ↔ wordSample w 4 = t0 ∧ wordSample w 5 = t1 ∧ wordSample w 7 = i.shortValue := by
  rw [decode_sr_eq_ok_iff]
  simp [hw, ht, hb, eq_comm, and_assoc]

/-! ## The actions Skip and Mismatch, and the common tail -/

/-- A sub-record that completes no packet ends in the common tail, which looks at IDX from before the step (40_scan_control.md R62). -/
theorem ScanEffect.exec_eq_withTail {s r : State} {i : Instr} (h : ScanEffect s i (scanTail r)) (hidx : r.idx = s.idx) :
    exec i s = .next (withTail s r) := by
  rw [h.exec_eq, scanTail_eq, hidx]
  rfl

/-- Settles O9: the mismatch case of `ScanEffect`; the action leaves IDX to the tail. -/
theorem mismatchActionWrites : Obligations.MismatchActionWrites := fun _ _ t s hc ht hs hw =>
  (ScanEffect.mismatch hc hw hs ht).exec_eq_withTail (r := mismatch t s) rfl

/-- Settles O10: the skip case of `ScanEffect`. -/
theorem skipActionWritesOnlyTheTail : Obligations.SkipActionWritesOnlyTheTail := fun _ _ _ hc hs hb =>
  (ScanEffect.skip hc hb hs).exec_eq_withTail rfl

/-- No two states want the same class (41_subrecord_ops.md section 3, law 2). -/
theorem wantedClass_injective : Function.Injective wantedClass := by
  intro d d'
  cases d <;> cases d' <;> decide

/-- A sub-record of the class that state `d` wants is a mismatch in every other state but SeekStart (R75). -/
theorem exec_wantedElsewhere {i : Instr} {d : DecState} {t : Tag} {s : State} (hc : i.subClass = some (wantedClass d))
    (ht : i.tag cfg = some t) (hs : s.st ≠ .seekStart) (hd : s.st ≠ d) :
    exec i s = .next (withTail s (withMismatch s t)) :=
  mismatchActionWrites i _ t s hc ht hs (wantedClass_injective.ne hd.symm)

/-! ## The five operations -/

/-- Settles O11: BND is the class that SeekStart wants. -/
theorem bndOperation : Obligations.BndOperation := by
  refine ⟨fun s => ⟨fun hs => ?_, fun hs => ?_⟩, fun w => ?_⟩
  · exact (ScanEffect.boundary hs).exec_eq_withTail rfl
  · exact exec_wantedElsewhere (d := .seekStart) rfl rfl hs hs
  · rw [decode_sr_eq_ok_iff]
    simp [Instr.wf, Instr.tag, eq_comm]

/-- Settles O12: XAX is the class that WantX wants. -/
theorem xaxOperation : Obligations.XaxOperation := by
  refine ⟨fun s v => ⟨fun hs => ?_, fun hs => ?_, fun hs => ?_⟩, fun w v => ?_⟩
  · exact skipActionWritesOnlyTheTail _ .xax s rfl hs (by decide)
  · exact (ScanEffect.captureX hs).exec_eq_withTail rfl
  · apply exec_wantedElsewhere (d := .wantX) rfl rfl <;> rcases hs with hs | hs <;> simp [hs]
  · exact decode_sr_eq_ok_iff_of_tag rfl rfl nofun

/-- Settles O13: YAX is the class that WantY wants. -/
theorem yaxOperation : Obligations.YaxOperation := by
  refine ⟨fun s v => ⟨fun hs => ?_, fun hs => ?_, fun hs => ?_⟩, fun w v => ?_⟩
  · exact skipActionWritesOnlyTheTail _ .yax s rfl hs (by decide)
  · exact (ScanEffect.captureY hs).exec_eq_withTail rfl
  · apply exec_wantedElsewhere (d := .wantY) rfl rfl <;> rcases hs with hs | hs <;> simp [hs]
  · exact decode_sr_eq_ok_iff_of_tag rfl rfl nofun

/-- A scan that completed a packet of no known orientation shows UnrecognizedOrientation (10_state.md R19). -/
theorem cause_unrecognizedOrientation {s : State} (hd : s.done = true) (hp : s.pkt = true)
    (hr : s.result = .indeterminate) : (outputs s).cause = 3 := by
  simp [outputs, causeKind, hd, hp, hr, ErrorKind.code]

/-- Settles O14: ZAX is the class that WantZ wants, and completion has no common tail. -/
theorem zaxOperation : Obligations.ZaxOperation := by
  refine ⟨fun s v => ⟨fun hs => ?_, fun hs => ?_, fun _ hr => ?_, fun hs => ?_⟩, fun w v => ?_⟩
  · exact skipActionWritesOnlyTheTail _ .zax s rfl hs (by decide)
  · exact (ScanEffect.completion hs).exec_eq
  · exact cause_unrecognizedOrientation rfl rfl hr
  · apply exec_wantedElsewhere (d := .wantZ) rfl rfl <;> rcases hs with hs | hs <;> simp [hs]
  · exact decode_sr_eq_ok_iff_of_tag rfl rfl nofun

/-- No state wants an OTH (41_subrecord_ops.md R74). -/
theorem oth_ne_wantedClass (d : DecState) : SubClass.oth ≠ wantedClass d := by
  cases d <;> decide

/-- Settles O15: OTH is the class that no state wants, and its tag is none of the four named ones. -/
theorem othOperation : Obligations.OthOperation := by
  refine ⟨fun s t0 t1 v => ⟨fun hs => ?_, fun hs => ?_⟩, fun w t0 t1 v => ?_⟩
  · exact skipActionWritesOnlyTheTail _ .oth s rfl hs (by decide)
  · exact mismatchActionWrites _ .oth _ s rfl rfl hs (oth_ne_wantedClass s.st)
  · have hwf : (Instr.oth t0 t1 v).wf cfg = true ↔
        (t0, t1) ∉ ([(0x0000, 0x0000), (0x0002, 0x0000), (0x0002, 0x0001), (0x0002, 0x0002)] : List Tag) := Instr.wf_oth
    rw [← hwf]
    constructor
    · intro h
      have hw := (decode_sr_eq_ok_iff.1 h).1
      obtain ⟨h0, h1, hv⟩ := (decode_sr_eq_ok_iff_of_tag hw rfl nofun).1 h
      exact ⟨h0, h1, hv, hw⟩
    · rintro ⟨h0, h1, hv, hw⟩
      exact (decode_sr_eq_ok_iff_of_tag hw rfl nofun).2 ⟨h0, h1, hv⟩

end Sys2Proof.Machine

/-! The tag matcher and the orientation classifier: their tables, where the classifier is used, and that the completing value
sample reaches Z alone (42_classify.md). -/

namespace Sys2Proof.Machine

/-! ## The tag matcher (42_classify.md R81) -/

/-- OTH is the class that is none of the four named ones. -/
theorem eq_oth_iff (c : SubClass) : c = .oth ↔ c ≠ .bnd ∧ c ≠ .xax ∧ c ≠ .yax ∧ c ≠ .zax := by
  cases c <;> decide

/-- Settles O20: each named class is wanted by one state, so it is found exactly at that state's tag; OTH is the rest. -/
theorem tagMatcherTests : Obligations.TagMatcherTests := by
  intro t0 t1
  have hbnd : classOf cfg (t0, t1) = .bnd ↔ t0 = 0x0000 ∧ t1 = 0x0000 :=
    (classOf_eq_wantedClass .seekStart _).trans Prod.mk_inj
  have hxax : classOf cfg (t0, t1) = .xax ↔ t0 = 0x0002 ∧ t1 = 0x0000 :=
    (classOf_eq_wantedClass .wantX _).trans Prod.mk_inj
  have hyax : classOf cfg (t0, t1) = .yax ↔ t0 = 0x0002 ∧ t1 = 0x0001 :=
    (classOf_eq_wantedClass .wantY _).trans Prod.mk_inj
  have hzax : classOf cfg (t0, t1) = .zax ↔ t0 = 0x0002 ∧ t1 = 0x0002 :=
    (classOf_eq_wantedClass .wantZ _).trans Prod.mk_inj
  refine ⟨hbnd, hxax, hyax, hzax, ?_⟩
  rw [eq_oth_iff, Ne, Ne, Ne, Ne, hbnd, hxax, hyax, hzax]

/-! ## Who writes RESULT (42_classify.md R83, R84) -/

/-- The tail gives RESULT Indeterminate or leaves it (40_scan_control.md R62, R63). -/
theorem scanTail_result_or (r : State) :
    (scanTail r).result = .indeterminate ∨ (scanTail r).result = r.result := by
  rw [scanTail_result]
  exact ite_eq_or_eq _ _ _

/-- A sub-record gives RESULT the classification of X and Y on completion; otherwise RESULT is left to the tail. -/
theorem ScanEffect.result_cases {s t : State} {i : Instr} (h : ScanEffect s i t) :
    (∃ v, i = .zax v ∧ s.st = .wantZ ∧ t.result = classify cfg s.x s.y) ∨
    t.result = .indeterminate ∨ t.result = s.result := by
  cases h with
  | skip hc hn hs => exact .inr (scanTail_result_or s)
  | boundary hs => exact .inr (scanTail_result_or (setSt .wantX (clearXYZ s)))
  | @captureX v hs => exact .inr (scanTail_result_or (setSt .wantY (setX v s)))
  | @captureY v hs => exact .inr (scanTail_result_or (setSt .wantZ (setY v s)))
  | completion hs => exact .inl ⟨_, rfl, hs, rfl⟩
  | @mismatch _ _ g hc hw hs hg => exact .inr (scanTail_result_or (Machine.mismatch g s))

/-- Every step gives RESULT the classification of a completed packet, makes it Indeterminate, or leaves it. -/
theorem step_result_cases {s t : State} (h : step s = .next t) :
    (∃ v, fetch s = .instr (.zax v) ∧ s.st = .wantZ ∧ t.result = classify cfg s.x s.y) ∨
    t.result = .indeterminate ∨ t.result = s.result := by
  cases stepKind_of_step h with
  | idle => exact .inr (.inr rfl)
  | write => exact .inr (.inr rfl)
  | reset => exact .inr (.inl rfl)
  | start => exact .inr (.inl rfl)
  | scan hs he =>
    rcases he.result_cases with ⟨v, rfl, hst, hres⟩ | hres
    · exact .inl ⟨v, hs.1, hst, hres⟩
    · exact .inr hres

/-! ## The classifier (42_classify.md R83, R84) -/

/-- Settles O22: the table by the classifier's four branches, and its one place of use by the cases of a step. -/
theorem classifierTable : Obligations.ClassifierTable := by
  refine ⟨fun x y => ?_, fun s t h hdet hnew => ?_⟩
  · rw [classify_cfg]
    split_ifs with hnormal hleft hright
    · obtain ⟨rfl, rfl | rfl⟩ := hnormal <;> decide
    · obtain ⟨rfl, rfl⟩ := hleft; decide
    · obtain ⟨rfl, rfl⟩ := hright; decide
    · have hother : (x, y) ∉ [((0xFFFF, 0xFFFF) : Sample × Sample), (0x0000, 0xFFFF), (0x0000, 0x0000), (0xFFFF, 0x0000)] := by
        simp only [List.mem_cons, Prod.mk.injEq, List.not_mem_nil, or_false]
        tauto
      simp only [hnormal, hleft, hright, hother, not_false_eq_true, and_self]
  · rcases step_result_cases h with hzax | hind | hkept
    · exact hzax
    · exact absurd hind hdet
    · exact absurd hkept hnew

/-- No constants make the classifier answer Inverted: none of its branches does. -/
theorem classify_ne_inverted_of_config (c : Config) (x y : Sample) : classify c x y ≠ .inverted := by
  unfold classify
  split_ifs <;> decide

/-- Settles O23: a step takes RESULT from the classifier, makes it Indeterminate, or leaves it. -/
theorem invertedIsNeverProduced : Obligations.InvertedIsNeverProduced := by
  refine ⟨classify_ne_inverted_of_config, fun s t h hinv => ?_⟩
  rcases step_result_cases h with ⟨-, -, -, hres⟩ | hind | hkept
  · exact absurd (hres.symm.trans hinv) (classify_ne_inverted_of_config _ _ _)
  · cases hind.symm.trans hinv
  · exact hkept.symm.trans hinv

/-! ## The value sample of the completing sub-record (42_classify.md R86) -/

/-- In WantZ a ZAX of the loaded block completes the packet (41_subrecord_ops.md R73). -/
theorem ScansBlock.step_completion {b : RawBlock} {s : State} (hs : ScansBlock b s) (hr : s.run = true)
    (hi : s.idx.toNat < 7) (hst : s.st = .wantZ) (hz : blockClass b s.idx.toNat = .zax) :
    step s = .next (complete (b.at (8 * s.idx.toNat + 7)) s) := by
  rw [blockClass] at hz
  rw [hs.step_scan hr hi, decodeFields_eq, hz]
  exact (ScanEffect.completion hst).exec_eq

/-- While a scan runs, IDX counts its ScanSteps and selects a sub-record. -/
theorem idx_of_afterScanSteps {b : RawBlock} {s t : State} {n : Nat} (hr : s.run = false)
    (h : afterScanSteps b s n = .next t) (hrun : t.run = true) : t.idx.toNat = n ∧ n < 7 := by
  obtain ⟨u, hu, hin, hidx⟩ := afterScanSteps_inScanOf b hr n
  cases hu.symm.trans h
  exact ⟨hidx hrun, hidx hrun ▸ hin.idx_lt hrun⟩

/-- Two blocks with the same tags, and with the same value samples in the first `n` sub-records, have after `n` ScanSteps
states that differ in BLK alone: the value samples not yet reached are not yet read. -/
theorem afterScanSteps_withBlk_of_prefix {b b' : RawBlock} {s : State} (hr : s.run = false)
    (htag : ∀ j, j < 7 → b.at (8 * j + 4) = b'.at (8 * j + 4) ∧ b.at (8 * j + 5) = b'.at (8 * j + 5))
    (n : Nat) (hval : ∀ j, j < 7 → j < n → b.at (8 * j + 7) = b'.at (8 * j + 7)) {t : State}
    (h : afterScanSteps b s n = .next t) :
    ScansBlock b t ∧ ∃ m, ScansBlock b' (withBlk m t) ∧ afterScanSteps b' s n = .next (withBlk m t) := by
  induction n generalizing t with
  | zero =>
    obtain ⟨m, hscan, hstart⟩ := afterScanSteps_zero b hr
    obtain ⟨m', hscan', hstart'⟩ := afterScanSteps_zero b' hr
    cases hstart.symm.trans h
    exact ⟨hscan, m', hscan', hstart'⟩
  | succ n ih =>
    obtain ⟨u, hu, hstep⟩ := runSteps_prefix h
    obtain ⟨hscan, m, hscan', hu'⟩ := ih (fun j h7 hj => hval j h7 (Nat.lt_succ_of_lt hj)) hu
    have hstep' : step (withBlk m u) = .next (withBlk m t) := by
      refine hscan.step_withBlk hscan' htag (fun hrun hi _ _ => hval _ hi ?_) hstep
      rw [(idx_of_afterScanSteps hr hu hrun).1]
      exact Nat.lt_succ_self n
    exact ⟨hscan.of_step hstep, m, hscan'.of_step hstep', (runSteps_succ hu').trans hstep'⟩

/-- Settles O24: up to the completing step the two scans differ in BLK alone, and completion puts the value sample in Z. -/
theorem completingValueReachesOnlyZ : Obligations.CompletingValueReachesOnlyZ := by
  refine ⟨fun s v v' hst => ?_, fun b b' s u i hr hagree hu hrun hidx hst hz => ?_⟩
  · exact ⟨complete v s, (ScanEffect.completion hst).exec_eq, (ScanEffect.completion hst).exec_eq⟩
  · obtain ⟨-, hi⟩ := idx_of_afterScanSteps hr hu hrun
    have htag : ∀ j, j < 7 → b.at (8 * j + 4) = b'.at (8 * j + 4) ∧ b.at (8 * j + 5) = b'.at (8 * j + 5) :=
      fun j hj => ⟨(hagree _ (by omega) (by omega)).symm, (hagree _ (by omega) (by omega)).symm⟩
    have hval : ∀ j, j < 7 → j < i → b.at (8 * j + 7) = b'.at (8 * j + 7) :=
      fun j hj hji => (hagree _ (by omega) (by omega)).symm
    obtain ⟨hscan, m, hscan', hu'⟩ := afterScanSteps_withBlk_of_prefix hr htag i hval hu
    have hz' : blockClass b' i = .zax := by
      obtain ⟨h4, h5⟩ := htag i hi
      rwa [blockClass, ← h4, ← h5]
    subst hidx
    have hstep := hscan.step_completion hrun hi hst hz
    have hstep' := hscan'.step_completion hrun hi hst hz'
    exact ⟨_, _, (runSteps_succ hu).trans hstep, (runSteps_succ hu').trans hstep', rfl,
      ⟨rfl, rfl, rfl, rfl, rfl, rfl, rfl, rfl, rfl, rfl⟩, rfl, rfl⟩

end Sys2Proof.Machine

/-! The result of a completed packet, the priority of RESET and START, and the host's monitor (60_exceptions.md). -/

namespace Sys2Proof.Machine

/-! ## RESULT of a completed packet (60_exceptions.md R93) -/

/-- Settles O44: a ScanStep needs RUN = 1, where PKT is 0 by R25; so of the steps that end with PKT = 1, completion writes
RESULT from X and Y, and the others write none of the three. -/
theorem resultIsTheClassificationOfXY : Obligations.ResultIsTheClassificationOfXY := by
  intro s t hinv hclass h hpkt
  cases stepKind_of_step h with
  | idle => exact hclass hpkt
  | write => exact hclass hpkt
  | reset => cases hpkt
  | start => cases hpkt
  | scan hs he =>
    rcases he.completes_or_tail with ⟨-, v, rfl⟩ | ⟨-, r, rfl, -, -, -, htail⟩
    · rfl
    · obtain ⟨-, hnone, -⟩ := hinv.scan.running (scans_running hs h).1
      have hsome : s.pkt = true := htail.symm.trans ((scanTail_pkt r).symm.trans hpkt)
      cases hnone.symm.trans hsome

/-! ## The priority of the commands (60_exceptions.md R96) -/

theorem nextMove_of_inputs {s : State} {a : HostMove} {rest : List HostMove} (h : s.inputs = a :: rest) :
    nextMove s = a := by
  rw [nextMove, h]; rfl

theorem dropMove_of_inputs {s : State} {a : HostMove} {rest : List HostMove} (h : s.inputs = a :: rest) :
    dropMove s = { s with inputs := rest } := by
  rw [dropMove, h]; rfl

/-- Settles O7: the fetch looks at `rst` first, then at `start`, and at RUN only with both low. -/
theorem resetBeatsStartBeatsScanStep : Obligations.ResetBeatsStartBeatsScanStep := by
  refine ⟨fun s start rest h => ?_, fun s rest h => ?_⟩
  · rw [step_of_fetch_instr (fetch_of_rst (nextMove_of_inputs h)), dropMove_of_inputs h]
  · rw [step_of_fetch_instr (fetch_of_start (nextMove_of_inputs h)), dropMove_of_inputs h]

/-! ## One decoded orientation in the monitor (60_exceptions.md R102 to R104) -/

namespace Monitor

variable {m : Monitor} {o : Orientation}

@[simp] theorem judge_indeterminate (m : Monitor) : m.judge .indeterminate = m := rfl

theorem judge_change (hdet : o ≠ .indeterminate) (hnew : m.lastApplied ≠ some o) :
    m.judge o = { m with lastDecoded := some o, lastApplied := some o, trace := m.trace ++ [.apply o] } := by
  rw [judge, if_neg hdet, if_neg hnew.symm]; rfl

theorem judge_repeat (hdet : o ≠ .indeterminate) (hold : m.lastApplied = some o) :
    m.judge o = { m with lastDecoded := some o } := by
  rw [judge, if_neg hdet, if_pos hold.symm]

end Monitor

/-- Settles O54, a clause for each branch of the judgement. -/
theorem monitorJudgesOneOrientation : Obligations.MonitorJudgesOneOrientation :=
  fun m _ => ⟨fun h => h ▸ m.judge_indeterminate, Monitor.judge_change, Monitor.judge_repeat⟩

/-! ## Reads of the source (60_exceptions.md R94, 30_encoding.md R56) -/

/-- A read of the 56 samples of a block gives the block. -/
@[simp] theorem RawBlock.ofRead_toList (b : RawBlock) : RawBlock.ofRead b.toList = some b :=
  dif_pos b.length_toList

theorem RawBlock.ofRead_short {l : List Sample} (h : l.length < 56) : RawBlock.ofRead l = none :=
  dif_neg h.ne

/-! ## The end of the host process (60_exceptions.md R94, R105) -/

namespace Monitor

/-- Only an invocation of the collaborator shows among the applied orientations. -/
theorem applied_act_of_not_apply {a : HostAction} (m : Monitor) (h : ∀ o, a ≠ .apply o) :
    (m.act a).applied = m.applied := by
  cases a with
  | apply o => exact absurd rfl (h o)
  | wait | readSource | terminate => simp [applied, act]

/-- The monitor that FatalIO has ended, behind the iteration's wait and read. -/
def ended (m : Monitor) : Monitor := { ((m.act (.wait 1)).act .readSource).act .terminate with terminated := true }

theorem ended_applied (m : Monitor) : m.ended.applied = m.applied :=
  calc m.ended.applied
      = (((m.act (.wait 1)).act .readSource).act .terminate).applied := rfl
    _ = ((m.act (.wait 1)).act .readSource).applied := applied_act_of_not_apply _ nofun
    _ = (m.act (.wait 1)).applied := applied_act_of_not_apply _ nofun
    _ = m.applied := applied_act_of_not_apply _ nofun

/-- A read that gives no block ends the process: the block gets no START, and no orientation is judged. -/
theorem poll_noBlock {read : Option (List Sample)} {m : Monitor} (s : State) (hm : m.terminated = false)
    (hread : read.bind RawBlock.ofRead = none) : m.poll read s = .next (m.ended, s) := by
  simp only [poll, hm, hread, Bool.false_eq_true, if_false, ended]

theorem poll_terminated {m : Monitor} (read : Option (List Sample)) (s : State) (hm : m.terminated = true) :
    m.poll read s = .next (m, s) := if_pos hm

theorem pollAll_terminated {m : Monitor} (reads : List (Option (List Sample))) (s : State) (hm : m.terminated = true) :
    pollAll reads m s = .next (m, s) := by
  induction reads with
  | nil => rfl
  | cons read reads ih => rw [pollAll, poll_terminated read s hm]; exact ih

end Monitor

/-- Settles O56: a short read gives no block, so the process ends; an ended process does nothing more. -/
theorem shortReadEndsTheHost : Obligations.ShortReadEndsTheHost := fun _ m s hl hm =>
  ⟨m.ended, Monitor.poll_noBlock s hm (RawBlock.ofRead_short hl), rfl, m.ended_applied,
    fun reads => Monitor.pollAll_terminated reads s rfl⟩

/-! ## An iteration on a full read (60_exceptions.md R101) -/

/-- A run begins with its first step. -/
theorem runSteps_of_step {s t : State} (h : step s = .next t) (n : Nat) : runSteps (n + 1) s = runSteps n t := by
  rw [runSteps, h]

/-- The wait ends at once with DONE = 1. -/
theorem waitDone_of_done {s : State} (hd : s.done = true) (k : Nat) : waitDone k s = .next s := by
  cases k with
  | zero => rfl
  | succ k => exact if_pos hd

theorem waitDone_of_step {s t : State} (hd : s.done = false) (h : step s = .next t) (k : Nat) :
    waitDone (k + 1) s = waitDone k t := by
  simp only [waitDone, hd, h, Bool.false_eq_true, if_false]

/-- The wait ends in the first state of the run that has DONE = 1, if it lasts so long. -/
theorem waitDone_of_first_done {n k : Nat} {s t : State} (hk : n ≤ k) (h : runSteps n s = .next t) (hd : t.done = true)
    (hbefore : ∀ m, m < n → ∃ u, runSteps m s = .next u ∧ u.done = false) : waitDone k s = .next t := by
  induction n generalizing k s with
  | zero =>
    cases h
    exact waitDone_of_done hd k
  | succ n ih =>
    obtain ⟨k, rfl⟩ := Nat.exists_eq_add_one.2 (Nat.lt_of_lt_of_le n.succ_pos hk)
    obtain ⟨_, hs, hsd⟩ := hbefore 0 n.succ_pos
    cases hs
    cases hstep : step s with
    | next v =>
      rw [waitDone_of_step hsd hstep]
      refine ih (Nat.le_of_succ_le_succ hk) ((runSteps_of_step hstep n).symm.trans h) fun m hm => ?_
      rw [← runSteps_of_step hstep m]
      exact hbefore (m + 1) (Nat.succ_lt_succ hm)
    | fault f => simp [runSteps, hstep] at h
    | refused r => simp [runSteps, hstep] at h

/-- The host's load, START and wait give the reference function's result (40_scan_control.md R66, 70_reset_and_hazards.md
R112). -/
theorem hostDecode_computes_decodeBlock (b : RawBlock) {s : State} (hr : s.run = false) :
    ∃ t, hostDecode b s = .next t ∧ t.result = decodeBlock b ∧ t.done = true := by
  obtain ⟨m, -, hstart⟩ := hostCalls_started b s hr
  obtain ⟨n, t, -, hn, ht, hd, hres, -, -, -, -, -, hbefore⟩ := scanComputesDecode b s hr
  have hscan : ∀ k, afterScanSteps b s k = runSteps k { initRegisters s with run := true, inputs := [], blk := m } :=
    runSteps_add hstart
  simp only [hscan] at ht hbefore
  have hload : runSteps 57 { s with inputs := hostScript b } =
      .next { initRegisters s with run := true, inputs := [], blk := m } := hstart
  refine ⟨t, ?_, hres, hd⟩
  rw [hostDecode, hload]
  exact waitDone_of_first_done hn ht hd hbefore

/-- The iteration on a read that gives a block judges what the block decodes. -/
theorem Monitor.poll_block {l : List Sample} {b : RawBlock} {m : Monitor} {s t : State}
    (hm : m.terminated = false) (hread : RawBlock.ofRead l = some b) (hdecode : hostDecode b s = .next t) :
    m.poll (some l) s = .next (((m.act (.wait 1)).act .readSource).judge t.result, t) := by
  simp only [poll, hm, Option.bind_some, hread, hdecode, Bool.false_eq_true, if_false]

/-- Settles O57: the full read gives back the block, and the host's call of the block decodes it. -/
theorem monitorIterationDecodesTheBlock : Obligations.MonitorIterationDecodesTheBlock := by
  intro b m s hm hr
  obtain ⟨t, hdecode, hres, hd⟩ := hostDecode_computes_decodeBlock b hr
  have htrace : (m.act (.wait 1)).act .readSource = { m with trace := m.trace ++ [.wait 1, .readSource] } := by
    simp [Monitor.act]
  refine ⟨t, ?_, hd⟩
  rw [Monitor.poll_block hm (RawBlock.ofRead_toList b) hdecode, htrace, hres]

end Sys2Proof.Machine

/-! Loading BLK in any order, and how long a scan under way can last (70_reset_and_hazards.md R113, R119). -/

namespace Sys2Proof.Machine

/-! ## The listing of a block in BLK (20_memory.md R30) -/

theorem Memory.risingFrom_map_range' (f : Nat → Sample) {lo n : Nat} (h : lo + n ≤ cfg.blockLen) :
    Memory.risingFrom lo ((List.range' lo n).map fun a => (a, f a)) = true := by
  induction n generalizing lo with
  | zero => rfl
  | succ n ih => exact (Memory.risingFrom_cons ..).2 ⟨Nat.le_refl lo, by omega, ih (by omega)⟩

theorem Memory.read_map_range' (f : Nat → Sample) {lo n a : Nat} (hlo : lo ≤ a) (ha : a < lo + n) :
    Memory.read ((List.range' lo n).map fun a => (a, f a)) a = some (f a) := by
  induction n generalizing lo with
  | zero => omega
  | succ n ih =>
    rw [List.range'_succ, List.map_cons, Memory.read_cons]
    split_ifs with h
    · rw [h]
    · exact ih (by omega) (by omega)

/-- A rising memory lists no address outside BLK. -/
theorem Memory.read_outside {m : Memory} {lo a : Nat} (h : Memory.risingFrom lo m = true) (ha : cfg.blockLen ≤ a) :
    m.read a = none := by
  induction m generalizing lo with
  | nil => rfl
  | cons p m ih =>
    obtain ⟨b, w⟩ := p
    obtain ⟨-, hb, hm⟩ := (Memory.risingFrom_cons ..).1 h
    rw [Memory.read_cons, if_neg (by omega), ih hm]

theorem Memory.wf_ofBlock (b : RawBlock) : (Memory.ofBlock b).wf = true := by
  rw [Memory.ofBlock, List.range_eq_range']
  exact Memory.risingFrom_map_range' b.at (Nat.le_refl _)

theorem Memory.read_ofBlock (b : RawBlock) {a : Nat} (ha : a < cfg.blockLen) :
    (Memory.ofBlock b).read a = some (b.at a) := by
  rw [Memory.ofBlock, List.range_eq_range']
  exact Memory.read_map_range' b.at (Nat.zero_le a) (by omega)

/-- A canonical memory that reads as the block at every address of BLK is the block's listing. -/
theorem Memory.eq_ofBlock {m : Memory} {b : RawBlock} (hwf : m.wf = true)
    (hread : ∀ a, a < cfg.blockLen → m.read a = some (b.at a)) : m = Memory.ofBlock b := by
  refine Memory.ext_of_wf _ _ hwf (Memory.wf_ofBlock b) fun a => ?_
  rcases Nat.lt_or_ge a cfg.blockLen with ha | ha
  · rw [hread a ha, Memory.read_ofBlock b ha]
  · rw [Memory.read_outside hwf ha, Memory.read_outside (Memory.wf_ofBlock b) ha]

/-! ## Writes in any order (70_reset_and_hazards.md R113) -/

theorem fst_lt_of_perm_ofBlock {ps : List (Nat × Sample)} {b : RawBlock} (h : ps.Perm (Memory.ofBlock b)) :
    ∀ p ∈ ps, p.1 < cfg.blockLen := by
  intro p hp
  obtain ⟨a, ha, rfl⟩ := List.mem_map.1 (h.mem_iff.1 hp)
  exact List.mem_range.1 ha

/-- The writes of a block, in any order, leave its listing: they go to pairwise different addresses, and to all of BLK. -/
theorem writeAll_of_perm_ofBlock {ps : List (Nat × Sample)} {b : RawBlock} {m : Memory}
    (h : ps.Perm (Memory.ofBlock b)) (hwf : m.wf = true) : writeAll ps m = Memory.ofBlock b := by
  have hnd : (ps.map Prod.fst).Nodup := by
    have hfst : (Memory.ofBlock b).map Prod.fst = List.range cfg.blockLen := by
      simp [Memory.ofBlock, Function.comp_def]
    rw [(h.map Prod.fst).nodup_iff, hfst]
    exact List.nodup_range
  refine Memory.eq_ofBlock (wf_writeAll ps (fst_lt_of_perm_ofBlock h) m hwf) fun a ha => ?_
  have hmem : (a, b.at a) ∈ Memory.ofBlock b := List.mem_map_of_mem (List.mem_range.2 ha)
  exact read_writeAll ps hnd m (h.mem_iff.2 hmem)

/-- The host's writes of a block in another order write the pairs of its listing in another order. -/
theorem exists_pairs_of_perm_hostLoads {moves : List HostMove} {b : RawBlock} (h : moves.Perm (hostLoads b)) :
    ∃ ps : List (Nat × Sample), moves = ps.map (fun p => .load p.1 p.2) ∧ ps.Perm (Memory.ofBlock b) := by
  have hloads : hostLoads b = (Memory.ofBlock b).map fun p => .load p.1 p.2 := by simp [hostLoads, Memory.ofBlock]
  rw [hloads] at h
  exact (congrFun₂ (List.eq_map_comp_perm _) moves (Memory.ofBlock b)).mpr h

/-- Settles O33: the writes run one a step, and a canonical BLK is determined by what it reads. -/
theorem loadingOrderDoesNotMatter : Obligations.LoadingOrderDoesNotMatter := by
  intro s b moves hr hwf hperm
  obtain ⟨ps, rfl, hps⟩ := exists_pairs_of_perm_hostLoads hperm
  have hlen : ps.length = 56 := by simp [hps.length_eq, Memory.ofBlock]
  have hrun := runSteps_loads ps (fst_lt_of_perm_ofBlock hps)
    { s with inputs := ps.map fun p => .load p.1 p.2 } [] hr (List.append_nil _).symm
  rwa [hlen, writeAll_of_perm_ofBlock hps hwf] at hrun

/-! ## The end of a scan under way (70_reset_and_hazards.md R119) -/

/-- In a legal state with RUN = 1 and no host move to come, the fetch finds a sub-record to run. -/
theorem State.Inv.exists_scans {s : State} (hs : s.Inv) (hr : s.run = true) (hin : s.inputs = []) : ∃ i, scans s i := by
  obtain ⟨i, hi⟩ := fetchSubRecord_loaded (hs.blk.loadedInScan hr) (Nat.lt_succ_of_le (hs.scan.running hr).1)
  have hm : nextMove s = .pins false false := by rw [nextMove, hin]; rfl
  obtain ⟨-, t0, t1, v, -, -, -, rfl⟩ := fetchSubRecord_ok hi
  exact ⟨_, fetch_of_scan hm hr hi, _, decodeFields_subClass t0 t1 v⟩

theorem exists_step_of_scans {s : State} {i : Instr} (hs : scans s i) : ∃ t, step s = .next t := by
  obtain ⟨hf, c, hc⟩ := hs
  obtain ⟨t, he⟩ := exists_scanEffect hc (dropMove s)
  exact ⟨t, he.step_eq hf⟩

/-- A ScanStep that lowers RUN raises DONE (10_state.md R15, R16). -/
theorem done_of_scanStep {s t : State} {i : Instr} (hs : scans s i) (h : step s = .next t) (hr : t.run = false) :
    t.done = true := by
  obtain ⟨-, -, hscan, -⟩ := runDonePktFollowTheirRules s t h
  obtain ⟨hrun, hdone, -⟩ := hscan i hs
  refine hdone.2 (.inr ?_)
  by_contra hn
  cases hr.symm.trans (hrun.2 (not_or.1 hn))

/-- Settles O53, by induction on the sub-records left: a ScanStep ends the scan or takes IDX one further. -/
theorem runningScanEnds : Obligations.RunningScanEnds := by
  intro s hs hr hin
  induction hleft : 7 - s.idx.toNat generalizing s with
  | zero =>
    have hidx := (hs.scan.running hr).1
    omega
  | succ left ih =>
    obtain ⟨i, hi⟩ := hs.exists_scans hr hin
    obtain ⟨t, hstep⟩ := exists_step_of_scans hi
    obtain ⟨-, hidx, -⟩ := idxClearsOrAdvancesByOne s t hstep
    have hidx := hidx i hi
    cases htr : t.run with
    | false => exact ⟨1, t, by omega, runSteps_of_step hstep 0, done_of_scanStep hi hstep htr, htr⟩
    | true =>
      have htin : t.inputs = [] := by rw [step_inputs hstep, hin]; rfl
      obtain ⟨n, u, hn, hrun, hend⟩ := ih t (stepKeepsLegalStates s t hs hstep) htr htin (by omega)
      exact ⟨n + 1, u, by omega, (runSteps_of_step hstep n).trans hrun, hend⟩

end Sys2Proof.Machine

/-! What a single step leaves unchanged and when it has a next state: the sub-record operations, the commands, the host's writes
and the output codes (41_subrecord_ops.md, 70_reset_and_hazards.md R113, 10_state.md R13, R18). -/

namespace Sys2Proof.Machine
open Sys2Proof.Claims

/-! ## The five sub-record operations -/

/-- Away from the seventh sub-record the tail leaves RUN, DONE and RESULT (40_scan_control.md R62, R63). -/
theorem scanTail_endFlags {r : State} (h6 : r.idx ≠ 6) :
    (scanTail r).run = r.run ∧ (scanTail r).done = r.done ∧ (scanTail r).result = r.result := by
  rw [scanTail_run, scanTail_done, scanTail_result, if_neg h6, if_neg h6, if_neg h6]
  exact ⟨rfl, rfl, rfl⟩

namespace ScanEffect

variable {s t : State} {i : Instr} {c : SubClass}

/-- A sub-record takes no further host move. -/
theorem inputs_eq (h : ScanEffect s i t) : t.inputs = s.inputs := by
  cases h <;> simp

/-- Away from the seventh sub-record, RUN, DONE and RESULT change on completion only (40_scan_control.md R63, R64). -/
theorem endFlags_eq (h : ScanEffect s i t) (hn : ¬completes s i) (h6 : s.idx ≠ 6) :
    t.run = s.run ∧ t.done = s.done ∧ t.result = s.result := by
  cases h with
  | skip hc hb hs => exact scanTail_endFlags h6
  | boundary hs => exact scanTail_endFlags (r := setSt .wantX (clearXYZ s)) h6
  | @captureX v hs => exact scanTail_endFlags (r := setSt .wantY (setX v s)) h6
  | @captureY v hs => exact scanTail_endFlags (r := setSt .wantZ (setY v s)) h6
  | completion hs => exact absurd ⟨hs, rfl⟩ hn
  | @mismatch _ _ g hc hw hs hg => exact scanTail_endFlags (r := Machine.mismatch g s) h6

/-- PKT changes on completion only (10_state.md R17). -/
theorem pkt_eq (h : ScanEffect s i t) (hn : ¬completes s i) : t.pkt = s.pkt := by
  rcases h.completes_or_tail with ⟨hc, -⟩ | ⟨-, r, rfl, -, -, -, hpkt⟩
  · exact absurd hc hn
  · rw [scanTail_pkt, hpkt]

/-- X, Y and Z change for a boundary in SeekStart and for each one's own capture only (10_state.md R11). -/
theorem xyz_eq (h : ScanEffect s i t) (hc : i.subClass = some c) :
    (¬(c = .bnd ∧ s.st = .seekStart) → ¬(c = .xax ∧ s.st = .wantX) → t.x = s.x) ∧
    (¬(c = .bnd ∧ s.st = .seekStart) → ¬(c = .yax ∧ s.st = .wantY) → t.y = s.y) ∧
    (¬(c = .bnd ∧ s.st = .seekStart) → ¬(c = .zax ∧ s.st = .wantZ) → t.z = s.z) := by
  cases h with
  | skip => simp
  | boundary hs => cases hc; simp [hs]
  | captureX hs => cases hc; simp [hs]
  | captureY hs => cases hc; simp [hs]
  | completion hs => cases hc; simp [hs]
  | mismatch => simp

/-- The class a state does not want leads to SeekStart, by a skip or by a mismatch (41_subrecord_ops.md section 3, law 2). -/
theorem st_eq_seekStart (h : ScanEffect s i t) (hc : i.subClass = some c) (hw : c ≠ wantedClass s.st) :
    t.st = .seekStart := by
  cases h with
  | skip _ _ hs => rw [scanTail_st, hs]
  | boundary hs => cases hc; simp [hs, wantedClass] at hw
  | captureX hs => cases hc; simp [hs, wantedClass] at hw
  | captureY hs => cases hc; simp [hs, wantedClass] at hw
  | completion hs => cases hc; simp [hs, wantedClass] at hw
  | mismatch => simp

/-- The wanted class raises the code of ST by one, but for completion, which leaves ST (41_subrecord_ops.md section 3, law 1). -/
theorem st_of_wanted (h : ScanEffect s i t) (hc : i.subClass = some (wantedClass s.st)) :
    (s.st ≠ .wantZ → t.st.code.toNat = s.st.code.toNat + 1) ∧ (s.st = .wantZ → t.st = .wantZ) := by
  cases h with
  | skip hc' hb hs => rw [hs] at hc; exact absurd (Option.some.inj (hc'.symm.trans hc)) hb
  | boundary hs => simp [hs, DecState.code]
  | captureX hs => simp [hs, DecState.code]
  | captureY hs => simp [hs, DecState.code]
  | completion hs => simp [hs]
  | mismatch hc' hw _ _ => exact absurd (Option.some.inj (hc'.symm.trans hc)) hw

end ScanEffect

/-- Settles O16: each register by the lemma that names its writers. -/
theorem subRecordFrame : Obligations.SubRecordFrame := by
  intro i c s t hc h
  have he := scanEffect_of_exec hc h
  have hcompletes : completes s i → c = .zax ∧ s.st = .wantZ :=
    fun ⟨hs, hz⟩ => ⟨Option.some.inj (hc.symm.trans hz), hs⟩
  obtain ⟨hx, hy, hz⟩ := he.xyz_eq hc
  refine ⟨fun a => by rw [he.blk_eq], he.inputs_eq, hx, hy, hz, fun hn => he.pkt_eq (mt hcompletes hn),
    fun hn => he.endFlags_eq (mt hcompletes hn), fun hn => ?_⟩
  rcases he.mismatches_or_quiet with ⟨hm, -⟩ | ⟨-, hquiet⟩
  · exact absurd hm hn
  · exact hquiet

/-- Settles O17: the wanted class is a match, any other a skip or a mismatch. -/
theorem stRisesByOneStaysOrDrops : Obligations.StRisesByOneStaysOrDrops := by
  intro i c s t hc h
  have he := scanEffect_of_exec hc h
  refine ⟨fun hw => ?_, fun hw => ?_, he.st_eq_seekStart hc⟩ <;> subst hw
  · exact (he.st_of_wanted hc).1
  · exact (he.st_of_wanted hc).2

/-! ## The tag matcher of any configuration (42_classify.md R82) -/

/-- Settles O21: the matcher's answer is the class of its first test that succeeds, and the constants differ from each other. -/
theorem testOrderDoesNotMatter : Obligations.TestOrderDoesNotMatter := by
  intro c t hdiff
  simp only [List.pairwise_cons, List.mem_cons, List.not_mem_nil, or_false, forall_eq_or_imp, forall_eq] at hdiff
  obtain ⟨⟨hbx, hby, hbz⟩, ⟨hxy, hxz⟩, hyz, -⟩ := hdiff
  unfold classOf
  split_ifs with hbnd hx hy hz
  · subst hbnd; simp [hbx, hby, hbz]
  · subst hx; simp [hbx.symm, hxy, hxz]
  · subst hy; simp [hby.symm, hxy.symm, hyz]
  · subst hz; simp [hbz.symm, hxz.symm, hyz.symm]
  · simp [hbnd, hx, hy, hz]

/-! ## The host's writes and commands -/

/-- A host write is tried on the state without its move. -/
theorem step_of_load {s : State} {a : Nat} {v : Sample} (h : nextMove s = .load a v) :
    step s = hostLoad a v (dropMove s) := by
  rw [step, fetch_of_load h]

/-- Settles O32, by the three branches of a host write. -/
theorem hostWriteStoresOneSample : Obligations.HostWriteStoresOneSample := by
  intro s a v hm
  rw [step_of_load hm]
  refine ⟨fun hr ha => ?_, fun hr => if_pos hr, fun hr ha => ?_⟩
  · exact ⟨_, hostLoad_eq hr (Nat.lt_succ_of_le ha), rfl, fun a' => Memory.read_write s.blk a a' v⟩
  · have hout : ¬a < cfg.blockLen := Nat.not_lt.2 ha
    simp only [hostLoad, dropMove_run, hr, Bool.false_eq_true, if_false, if_neg hout]

/-- Settles O5: the two commands write registers only. -/
theorem commandsLeaveBlkAlone : Obligations.CommandsLeaveBlkAlone := by
  rintro i s t (rfl | rfl) h
  · obtain rfl := execReset_next h
    exact ⟨fun _ => rfl, rfl, rfl⟩
  · obtain ⟨-, rfl⟩ := execStart_next h
    exact ⟨fun _ => rfl, rfl, rfl⟩

/-- Settles O42: a step leaves BLK or writes one sample inside it. -/
theorem stepKeepsBlkCanonical : Obligations.StepKeepsBlkCanonical := by
  intro s t hwf h
  cases stepKind_of_step h with
  | idle => exact hwf
  | write _ _ ha => exact Memory.wf_write _ _ _ hwf ha
  | reset => exact hwf
  | start => exact hwf
  | scan _ he => rw [he.blk_eq]; exact hwf

/-! ## The steps a legal state has -/

/-- Settles O6: the three samples are what the fetch reads. -/
theorem stepRunsTheSelectedSubRecord : Obligations.StepRunsTheSelectedSubRecord :=
  fun _ _ _ _ hsilent hr hi h0 h1 hv =>
    step_of_fetch_instr (fetch_of_scan hsilent hr (fetchSubRecord_of_read (Nat.lt_succ_of_le hi) h0 h1 hv))

/-- START goes through, or some sample of BLK is not loaded (20_memory.md R30). -/
theorem execStart_next_or_refused (s : State) :
    (∃ t, execStart s = .next t) ∨
    (execStart s = .refused .startBeforeBlkLoaded ∧ ∃ a, a < cfg.blockLen ∧ s.blk.read a = none) := by
  by_cases hl : s.blk.loaded = true
  · exact .inl ⟨_, if_pos hl⟩
  · refine .inr ⟨if_neg hl, ?_⟩
    simpa [Memory.loaded_iff, Option.eq_none_iff_forall_ne_some] using hl

/-- With RUN = 1 and no command, the step of a legal state runs a sub-record. -/
theorem State.Inv.exists_step_of_silent {s : State} (hs : s.Inv) (hr : s.run = true) (hm : hostSilent s) :
    ∃ t, step s = .next t := by
  obtain ⟨hidx, -⟩ := hs.scan.running hr
  obtain ⟨i, hi⟩ := fetchSubRecord_loaded (hs.blk.loadedInScan hr) (Nat.lt_succ_of_le hidx)
  obtain ⟨-, t0, t1, v, -, -, -, rfl⟩ := fetchSubRecord_ok hi
  exact exists_step_of_scans ⟨fetch_of_scan hm hr hi, _, decodeFields_subClass t0 t1 v⟩

/-- Settles O43, by what the host does in the step. -/
theorem blockNeverFaults : Obligations.BlockNeverFaults := by
  intro s hs hobeys
  cases hm : nextMove s with
  | load a v =>
    obtain ⟨hr, ha⟩ := hobeys a v hm
    exact .inl ⟨_, (step_of_load hm).trans (hostLoad_eq hr ha)⟩
  | pins rst start =>
    match rst, start, hm with
    | true, _, hm => exact .inl ⟨_, step_of_fetch_instr (fetch_of_rst hm)⟩
    | false, true, hm =>
      have hstep : step s = execStart (dropMove s) := step_of_fetch_instr (fetch_of_start hm)
      rw [hstep]
      rcases execStart_next_or_refused (dropMove s) with hnext | ⟨href, hnone⟩
      · exact .inl hnext
      · exact .inr ⟨href, rfl, hnone⟩
    | false, false, hm =>
      cases hr : s.run with
      | true => exact .inl (hs.exists_step_of_silent hr hm)
      | false => exact .inl ⟨dropMove s, by rw [step, fetch_of_idle hm hr]⟩

/-- Settles O39: it is the first state of every run. -/
theorem resetStateIsLegal : Obligations.ResetStateIsLegal :=
  fun moves => inv_of_reachable (.fromReset moves)

/-! ## The output codes (10_state.md R13, R18) -/

theorem DecState.code_injective : Function.Injective DecState.code := by
  intro d d'
  cases d <;> cases d' <;> decide

theorem Orientation.code_injective : Function.Injective Orientation.code := by
  intro o o'
  cases o <;> cases o' <;> decide

/-- Settles O47: no two values share a code. -/
theorem outputCodes : Obligations.OutputCodes := by
  intro s
  have hst (d : DecState) : (outputs s).stOut = d.code ↔ s.st = d := DecState.code_injective.eq_iff
  have hres (o : Orientation) : (outputs s).result = o.code ↔ s.result = o := Orientation.code_injective.eq_iff
  exact ⟨hst .seekStart, hst .wantX, hst .wantY, hst .wantZ, hres .normal, hres .left, hres .right, hres .inverted,
    hres .indeterminate⟩

end Sys2Proof.Machine

/-! The events of a whole scan, and the scan of a block without a boundary (41_subrecord_ops.md section 3, laws 4 and 5). -/

namespace Sys2Proof.Machine

/-! ## What holds in every state of a scan -/

/-- With RUN = 1 a step of the scan is the sub-record of the block that IDX selects. -/
theorem InScanOf.scanEffect {b : RawBlock} {s t : State} (h : InScanOf b s) (hr : s.run = true)
    (hstep : step s = .next t) :
    ScanEffect s (decodeFields (b.at (8 * s.idx.toNat + 4)) (b.at (8 * s.idx.toNat + 5)) (b.at (8 * s.idx.toNat + 7))) t :=
  scanEffect_of_exec (decodeFields_subClass _ _ _) ((h.block.step_scan hr (h.idx_lt hr)).symm.trans hstep)

/-- What START establishes and every ScanStep of the block keeps holds in all states of the scan. -/
theorem afterScanSteps_induction {b : RawBlock} {s : State} {P : State → Prop} (hr : s.run = false)
    (hstart : ∀ m, P { initRegisters s with run := true, inputs := [], blk := m })
    (hscan : ∀ u v, InScanOf b u → u.run = true → step u = .next v → P u → P v) {n : Nat} {t : State}
    (h : afterScanSteps b s n = .next t) : P t := by
  induction n generalizing t with
  | zero =>
    obtain ⟨m, -, hzero⟩ := afterScanSteps_zero b hr
    cases hzero.symm.trans h
    exact hstart m
  | succ n ih =>
    obtain ⟨u, hu, hstep⟩ := runSteps_prefix h
    obtain ⟨u', hu', hin, -⟩ := afterScanSteps_inScanOf b hr n
    cases hu.symm.trans hu'
    cases hur : u.run with
    | true => exact hscan u t hin hur hstep (ih hu)
    | false =>
      cases (hin.block.step_idle hur).symm.trans hstep
      exact ih hu

/-! ## The events of a scan -/

/-- The event tells a true mismatch of block `b`: its state does not want the class of the sub-record at its index, whose tag
it shows. -/
structure MismatchEvt.OfBlock (b : RawBlock) (e : MismatchEvt) : Prop where
  st : e.st ≠ .seekStart
  tag : e.tag = (b.at (8 * e.idx.toNat + 4), b.at (8 * e.idx.toNat + 5))
  unwanted : classOf cfg e.tag ≠ wantedClass e.st

/-- The scan of `b` that began with the trace `before` has shown the events `l`, all of sub-records already examined. Each event
takes two sub-records, a boundary that leaves SeekStart and the mismatch that returns there; outside SeekStart the first of the
next two has been examined. -/
structure ShowsEvents (b : RawBlock) (before l : List MismatchEvt) (s : State) : Prop where
  trace : s.evtLog = before ++ l
  count : 2 * l.length ≤ s.idx.toNat
  armed : s.st ≠ .seekStart → 2 * l.length < s.idx.toNat
  rising : l.Pairwise fun e e' => e.idx.toNat < e'.idx.toNat
  past : ∀ e ∈ l, e.idx.toNat < s.idx.toNat
  ofBlock : ∀ e ∈ l, e.OfBlock b
  mis : s.mis = true ↔ l ≠ []

namespace ShowsEvents

variable {b : RawBlock} {before l : List MismatchEvt} {s t : State}

/-- A sub-record that mismatches nothing shows no event. -/
theorem of_quiet (h : ShowsEvents b before l s) (hidx : t.idx.toNat = s.idx.toNat + 1) (hmis : t.mis = s.mis)
    (hlog : t.evtLog = s.evtLog) : ShowsEvents b before l t where
  trace := hlog.trans h.trace
  count := by have := h.count; omega
  armed _ := by have := h.count; omega
  rising := h.rising
  past e he := by have := h.past e he; omega
  ofBlock := h.ofBlock
  mis := by rw [hmis, h.mis]

/-- A mismatch shows its event behind the others. -/
theorem of_mismatch {e : MismatchEvt} (h : ShowsEvents b before l s) (hidx : t.idx.toNat = s.idx.toNat + 1)
    (hst : t.st = .seekStart) (hmis : t.mis = true) (hlog : t.evtLog = s.evtLog ++ [e]) (he : e.OfBlock b)
    (heidx : e.idx = s.idx) (hest : e.st = s.st) : ShowsEvents b before (l ++ [e]) t where
  trace := by rw [hlog, h.trace, List.append_assoc]
  count := by
    have := h.armed (hest ▸ he.st)
    simp only [List.length_append, List.length_singleton]
    omega
  armed hn := absurd hst hn
  rising := by
    refine List.pairwise_append.2 ⟨h.rising, List.pairwise_singleton .., fun e₁ h₁ e₂ h₂ => ?_⟩
    rw [List.mem_singleton.1 h₂, heidx]
    exact h.past e₁ h₁
  past := by
    refine List.forall_mem_append.2 ⟨fun e' he' => ?_, List.forall_mem_singleton.2 ?_⟩
    · have := h.past e' he'; omega
    · rw [heidx]; omega
  ofBlock := List.forall_mem_append.2 ⟨h.ofBlock, List.forall_mem_singleton.2 he⟩
  mis := by simp [hmis]

/-- A ScanStep shows the event of its mismatch or none. -/
theorem scanStep (h : ShowsEvents b before l s) (hs : InScanOf b s) (hr : s.run = true) (hstep : step s = .next t) :
    ∃ l', ShowsEvents b before l' t := by
  have he := hs.scanEffect hr hstep
  obtain ⟨hidx, -⟩ := hs.scanStep hr hstep
  rcases he.mismatches_or_quiet with ⟨⟨hst, c, hc', hw⟩, g, hg, hmis, hlog⟩ | ⟨-, hmis, hlog⟩
  · have hseek := he.st_eq_seekStart hc' hw
    cases (decodeFields_subClass _ _ _).symm.trans hc'
    cases (decodeFields_tag _ _ _).symm.trans hg
    exact ⟨_, h.of_mismatch hidx hseek hmis hlog ⟨hst, rfl, hw⟩ rfl rfl⟩
  · exact ⟨l, h.of_quiet hidx hmis hlog⟩

end ShowsEvents

/-- Every state of a scan has shown such events since the trace of the state it began in. -/
theorem afterScanSteps_showsEvents (b : RawBlock) {s t : State} (hr : s.run = false) {n : Nat}
    (h : afterScanSteps b s n = .next t) : ∃ l, ShowsEvents b s.evtLog l t :=
  afterScanSteps_induction (P := fun u => ∃ l, ShowsEvents b s.evtLog l u) hr (fun _ => ⟨[], by constructor <;> simp⟩)
    (fun _ _ hin hrun hstep ⟨_, hl⟩ => hl.scanStep hin hrun hstep) h

/-- Settles O50: in the seven sub-records of a block there is room for three events of two sub-records each. -/
theorem atMostThreeMismatchesInAScan : Obligations.AtMostThreeMismatchesInAScan := by
  intro b s hr
  obtain ⟨n, t, ht, hd, -, hidx, -⟩ := exists_first_done b hr
  obtain ⟨l, hl⟩ := afterScanSteps_showsEvents b hr ht
  have hcount := hl.count
  refine ⟨n, t, by omega, ht, hd, ?_⟩
  rw [emitted_of_append hl.trace]
  exact ⟨hl.trace.symm, by omega, hl.rising,
    fun e he => ⟨(hl.ofBlock e he).st, (hl.ofBlock e he).tag, (hl.ofBlock e he).unwanted⟩, hl.mis⟩

/-! ## A block without a boundary -/

/-- The registers of a scan that has only skipped sub-records. -/
structure OnlySkipped (s : State) : Prop where
  st : s.st = .seekStart
  mis : s.mis = false
  pkt : s.pkt = false
  x : s.x = 0
  y : s.y = 0
  z : s.z = 0

/-- In SeekStart a class other than BND is skipped (41_subrecord_ops.md R76). -/
theorem OnlySkipped.scanStep {b : RawBlock} {s t : State} (h : OnlySkipped s) (hs : InScanOf b s) (hr : s.run = true)
    (hb : blockClass b s.idx.toNat ≠ .bnd) (hstep : step s = .next t) : OnlySkipped t := by
  obtain ⟨hst, hmis, hpkt, hx, hy, hz⟩ := h
  have hskip := ScanEffect.skip (decodeFields_subClass _ _ (b.at (8 * s.idx.toNat + 7))) hb hst
  cases hskip.exec_eq.symm.trans (hs.scanEffect hr hstep).exec_eq
  constructor <;> simpa

/-- Without a boundary the scan never leaves SeekStart. -/
theorem afterScanSteps_onlySkipped {b : RawBlock} (hb : ∀ i, i < 7 → blockClass b i ≠ .bnd) {s t : State}
    (hr : s.run = false) {n : Nat} (h : afterScanSteps b s n = .next t) : OnlySkipped t :=
  afterScanSteps_induction hr (fun _ => ⟨rfl, rfl, rfl, rfl, rfl, rfl⟩)
    (fun _ _ hin hrun hstep hu => hu.scanStep hin hrun (hb _ (hin.idx_lt hrun)) hstep) h

/-- Settles O52: the scan ends without a packet, so it has taken all seven sub-records, and RESULT is Indeterminate
(10_state.md R25 (d)). -/
theorem noBoundaryGivesIndeterminate : Obligations.NoBoundaryGivesIndeterminate := by
  intro b s hr hb
  obtain ⟨n, t, ht, hd, hin, hidx, -⟩ := exists_first_done b hr
  obtain ⟨hst, hmis, hpkt, hx, hy, hz⟩ := afterScanSteps_onlySkipped hb hr ht
  obtain ⟨hseven, hres⟩ := hin.legal.incomplete hd hpkt
  obtain rfl : n = 7 := hidx.symm.trans hseven
  exact ⟨t, ht, hd, hres, hmis, hpkt, hst, hx, hy, hz, cause_incompleteBlock hd hpkt hres⟩

end Sys2Proof.Machine

/-! The debounce over a sequence of decoded orientations (60_exceptions.md R102 to R104). -/

namespace Sys2Proof.Machine.Monitor

/-- The judgement of a new determinate orientation invokes the collaborator with it. -/
theorem applied_judge_change {m : Monitor} {o : Orientation} (hdet : o ≠ .indeterminate)
    (hnew : m.lastApplied ≠ some o) : (m.judge o).applied = m.applied ++ [o] := by
  rw [judge_change hdet hnew]
  simp [applied]

theorem lastApplied_judge {m : Monitor} {o : Orientation} (hdet : o ≠ .indeterminate) :
    (m.judge o).lastApplied = some o := by
  by_cases h : m.lastApplied = some o
  · rw [judge_repeat hdet h]; exact h
  · rw [judge_change hdet h]

/-- Behind an applied orientation, the next ones applied are the determinate ones that end a run of repeats. -/
theorem applied_foldl_judge (os : List Orientation) {m : Monitor} {pre : List Orientation} {a : Orientation}
    (hm : m.lastApplied = some a) (ha : m.applied = pre ++ [a]) :
    (os.foldl (fun m o => m.judge o) m).applied =
      pre ++ (os.filter fun o => decide (o ≠ .indeterminate)).destutter' (· ≠ ·) a := by
  induction os generalizing m pre a with
  | nil => exact ha
  | cons o os ih =>
    rw [List.foldl_cons]
    by_cases hdet : o = .indeterminate
    · subst hdet
      exact ih hm ha
    · rw [List.filter_cons_of_pos (by simpa using hdet)]
      by_cases hrep : a = o
      · subst hrep
        rw [List.destutter'_cons_neg _ (by simp), judge_repeat hdet hm]
        exact ih hm ha
      · have hnew : m.lastApplied ≠ some o := by simpa [hm] using hrep
        rw [List.destutter'_cons_pos _ hrep,
          ih (lastApplied_judge hdet) (by rw [applied_judge_change hdet hnew, ha]), List.append_assoc]
        rfl

end Sys2Proof.Machine.Monitor

namespace Sys2Proof.Machine

/-- Settles O55, by induction up to the first determinate orientation, which is applied. -/
theorem monitorAppliesOnlyChanges : Obligations.MonitorAppliesOnlyChanges := by
  intro os
  induction os with
  | nil => rfl
  | cons o os ih =>
    rw [List.foldl_cons]
    by_cases hdet : o = .indeterminate
    · subst hdet
      exact ih
    · have hnew : Monitor.initial.lastApplied ≠ some o := nofun
      rw [List.filter_cons_of_pos (by simpa using hdet), List.destutter_cons']
      exact Monitor.applied_foldl_judge os (pre := []) (Monitor.lastApplied_judge hdet)
        (Monitor.applied_judge_change hdet hnew)

end Sys2Proof.Machine
